-- ==== Sys2Proof/Word.lean ====
section
/-! DEFINITION. The words of the BN24: bytes, 16-bit fields and 24-bit times (section 3.1, R202). -/

namespace Sys2Proof

/-- A byte of a message, a frame, the configuration image or the maintenance window. -/
abbrev Byte := BitVec 8

/-- A two-byte field, most significant byte first (R202). -/
abbrev Half := BitVec 16

/-- A local or corridor time: a count of ds modulo 2^24 (section 3.3, R159, R160). -/
abbrev Time := BitVec 24

/-- Index of an approach: approach n of the manual (1 to 4) is index n - 1. -/
abbrev ApproachIx := Fin 4

/-- Index of an entry slot of the approach table, 0 to 23 (R1). -/
abbrev SlotIx := Fin 24

/-- Index of a detection point: point n of the manual (1 to 16) is index n - 1. -/
abbrev PointIx := Fin 16

end Sys2Proof
end

