-- ==== Sys2Proof/Config.lean ====
section
/-! DEFINITION. What the manual fixes for every BN24 (capacities and fixed limits), and the values it leaves open. -/

namespace Sys2Proof.Config

/-- Records of the recent-departures list (R12). -/
def recentCapacity : Nat := 8

/-- The age, in ds, at which a recent-departures record lapses (R13). -/
def recentLapseAge : Nat := 1201

/-- Messages the inbox holds (R113). -/
def inboxCapacity : Nat := 8

/-- Frames the transmit queue holds (R134). -/
def queueCapacity : Nat := 6

/-- Records of the peer table (R161). -/
def peerCapacity : Nat := 16

/-- Members of a grant (R89). -/
def memberCapacity : Nat := 4

/-- The reply wait of an offer, in ds (R79). -/
def replyWait : Nat := 10

/-- Silence of the controller, in ds, after which it is declared silent (R100). -/
def silenceLimit : Nat := 30

/-- Greatest lead of a forecast, in ds (R36, R42). -/
def leadCap : Nat := 3000

/-- Slot times after the last falling edge at which a recessive line is free (R123). -/
def freeSlots : Nat := 15

/-- Slot times without a falling edge that end the quiet wait (R126). -/
def quietSlots : Nat := 200

/-- The coarse window of a beacon's error, in ds (R166). -/
def coarseWindow : Nat := 20

/-- The fine window of a beacon's error, in ds (R166). -/
def fineWindow : Nat := 2

/-- The start byte of the short messages (R96, R104). -/
def startByte : Byte := 0xD2

/-- The image, parameter and table mark (R185, R186, R187). -/
def imageMark : Byte := 0x6C

/-- The 7-bit bus address of the configuration memory (R184). -/
def memoryAddress : BitVec 7 := 0x50

/-- The most clock pulses that the loader gives to free ESDA (R184). -/
def clearPulses : Nat := 9

/-- The last byte of the configuration memory (R184). -/
def lastImageByte : Nat := 2047

/-- FREE VALUE (assumption 4). Whether the reference station that the maintenance view shows while the lock
state is OFF after a RELOAD is still the saved one: the manual says only that it is "held aside or none"
(section 8.3), so nothing is known of this constant. -/
opaque referenceShownWhileOff : Bool

/-- FREE VALUE (assumption 24). The reference time of an EXTEND grant accepted at a local time on an approach whose phase
view is absent: R83 gives none, since it takes the view to be present. -/
opaque extendReferenceWithoutView : Time → Time

/-- FREE VALUE (assumption 24). The reference time of an EARLY grant accepted at a local time on an approach whose phase
view is absent (R83). -/
opaque earlyReferenceWithoutView : Time → Time

/-- FREE VALUE (assumption 24). Whether the declined mark of an entry on an approach whose phase view is absent is GREEN
(R85 reads the mark from the view). -/
opaque greenWithoutView : Bool

end Sys2Proof.Config
end

