-- ==== Sys2Proof/Syntax.lean ====
section
/-! DEFINITION. The commands of the BN24: one constructor for each row of spec/opcode_table.json, in the table's order.
A command is one whole step of the part (spec/95_what_each_step_holds.md): an event at a pin, a byte or message completed
at a port, a timer running out, or a block taking the next request that waits for it. Its operands are what the event
brings from outside; what the part already holds is not repeated in them (assumption 5). -/

namespace Sys2Proof

/-- The direction bit of a transfer on the maintenance bus (R194). -/
inductive BusDirection where
  | write
  | read
deriving DecidableEq, Repr

/-- The byte of a CLEAR FLAGS command that the port takes and then holds (R196, R198): the command code itself, or
the first mask byte after it. -/
inductive PendingByte where
  | code
  | mask (first : Byte)
deriving DecidableEq, Repr

/-- The level of the corridor line at a moment: dominant, or recessive for so many slot times now (R119, R123). -/
inductive LineLevel where
  | dominant
  | recessive (slots : Nat)
deriving DecidableEq, Repr

/-- What has passed on the corridor line without a falling edge (assumption 8): the slot times since the last falling edge, or
since the last report or the end mark or the beginning of QUIET_WAIT where one of these came later; whether that last falling
edge is one that no command before has told, as those of an attempt that LINE_FAULT ended; and the level now. -/
structure LineReport where
  edge  : Bool
  slots : Nat
  level : LineLevel
deriving DecidableEq, Repr

inductive Instr where
  /-- HARD_RESET (R191): power-on, or RSTN held low. -/
  | hardReset
  /-- RESET_RELEASE (R184, R194): RSTN rises, with the level of MADR1 and MADR0 as the reset ends, and the ESCL
  pulses that the memory needs before ESDA is sampled high (0: it is high at once). -/
  | resetRelease (madr : BitVec 2) (esdaPulses : Nat)
  /-- LOAD_FAULT (R184): the memory misses the acknowledge of one of the four bytes that address it. -/
  | loadFault
  /-- ESCL_HOLD_TIMEOUT (R184): the memory holds ESCL low for more than 30 ms. -/
  | esclHoldTimeout
  /-- IMAGE_MARK_READ (R185): byte 0. -/
  | imageMarkRead (mark : Byte)
  /-- IDENTITY_BLOCK_READ (R185): bytes 1 to 4. -/
  | identityBlockRead (station rateCode site0 site1 : Byte)
  /-- PARAMETER_BLOCK_READ (R186): byte 5, then bytes 6 to 23. -/
  | parameterBlockRead (mark : Byte) (block : Vector Byte 18)
  /-- TABLE_MARK_READ (R187): byte 24, then byte 25 if it is wanted. -/
  | tableMarkRead (mark count : Byte)
  /-- TABLE_RECORD_READ (R188): a type byte and the bytes after it, of which as many are read as the type fixes. -/
  | tableRecordRead (type : Byte) (body : Vector Byte 11)
  /-- MAINT_TRANSFER_START (R194): a start or repeated start with a 7-bit address and a direction bit. -/
  | maintTransferStart (address : BitVec 7) (direction : BusDirection)
  /-- MAINT_TRANSFER_END (R194): a stop or repeated start. -/
  | maintTransferEnd
  /-- INTERNAL_ADDRESS_WRITE (R194): the first data byte of a write transfer. -/
  | internalAddressWrite (address : Byte)
  /-- ATTENTION_ENABLES_WRITE (R200): the second byte of the enables, at 0x0D. -/
  | attentionEnablesWrite (second : Byte)
  /-- RELOAD (R192, R196): the RELOAD code written to the command byte, with the ESCL pulses of the load it starts. -/
  | reload (esdaPulses : Nat)
  /-- CLEAR_COUNTERS (R197): its code written to the command byte. -/
  | clearCounters
  /-- CLEAR_FLAGS (R198): the second mask byte, at 0x10. -/
  | clearFlags (second : Byte)
  /-- COMMAND_UNKNOWN (R196): another code written to the command byte. -/
  | commandUnknown (code : Byte)
  /-- MAINT_WRITE_IGNORED (R194): a byte written to an address without behaviour of its own. -/
  | maintWriteIgnored (value : Byte)
  /-- READ_LATCH_FIRST_BYTE (R195): a byte read at the first byte of a field (assumption 9: a one-byte field too). -/
  | readLatchFirstByte
  /-- READ_LATCH_SECOND_BYTE (R195): a byte read at the second byte of a two-byte field. -/
  | readLatchSecondByte
  /-- DET_MESSAGE_RECEIVED (R104, R107): with a check byte, a detection message received whole. The payload is the kind byte and
  the body, and the length byte on the line is the count of the payload. Without a check byte the list is bytes that come on the
  line one after the other, start byte and length byte as any: those of a message, or of a part of one (R105, assumption 20). -/
  | detMessageReceived (payload : List Byte) (check : Option Byte)
  /-- DET_LENGTH_DROP (R104): the length byte after the start byte. -/
  | detLengthDrop (length : Byte)
  /-- DET_GAP_ABANDON (R106): more than 20 bit times pass within a message. -/
  | detGapAbandon
  /-- DET_CHARACTER_ERROR (R103): a byte whose stop bit is sampled at the space level. -/
  | detCharacterError
  /-- CHECK_IN (R15): the table takes a CHECK-IN from the inbox. -/
  | checkIn
  /-- CHECK_OUT (R18): the table takes a CHECK-OUT from the inbox. -/
  | checkOut
  /-- CANCEL (R21): the table takes a CANCEL from the inbox. -/
  | cancel
  /-- FORECAST_REQUEST (R22): the table takes a forecast request. -/
  | forecastRequest
  /-- INVALIDATION_REQUEST (R24): the table takes an invalidation request. -/
  | invalidationRequest
  /-- EVALUATION (R54): the table takes an evaluation. -/
  | evaluation
  /-- SILENCE_REQUEST (R100): the table takes the Controller Port's silence request. -/
  | silenceRequest
  /-- ENTRY_EXPIRY (R26): the expiry of the entry in a slot. -/
  | entryExpiry (slot : SlotIx)
  /-- UNTIMED_EXPIRY (R27): the expiry of the untimed entry in a slot. -/
  | untimedExpiry (slot : SlotIx)
  /-- RECENT_DEPARTURE_LAPSE (R13). -/
  | recentDepartureLapse
  /-- JOIN_REQUEST (R90): the arbiter takes a join request. -/
  | joinRequest
  /-- REPLY_WAIT_EXPIRY (R86). -/
  | replyWaitExpiry
  /-- GRANT_DEADLINE (R94). -/
  | grantDeadline
  /-- CONTROLLER_MESSAGE_RECEIVED (R97): a controller message received whole; operands as for DET_MESSAGE_RECEIVED. -/
  | controllerMessageReceived (payload : List Byte) (check : Option Byte)
  /-- LINK_LENGTH_DROP (R96). -/
  | linkLengthDrop (length : Byte)
  /-- LINK_GAP_ABANDON (R96). -/
  | linkGapAbandon
  /-- LINK_CHARACTER_ERROR (R96). -/
  | linkCharacterError
  /-- CONTROLLER_SILENCE (R100): the silence timer reaches 30 ds. -/
  | controllerSilence
  /-- CONTROLLER_MESSAGE_SENT (R99). -/
  | controllerMessageSent
  /-- QUIET_WAIT_END (R126), with what has passed on the line. -/
  | quietWaitEnd (report : LineReport)
  /-- ATTEMPT_START (R129), with what has passed on the line. -/
  | attemptStart (report : LineReport)
  /-- START_MARK_DETECTED (R124). -/
  | startMarkDetected
  /-- FRAME_RECEIVED (R127): the header, payload and check bits of a frame decoded whole. -/
  | frameReceived (header : Half) (payload : List Byte) (check : Half)
  /-- FRAME_MALFORMED (R124). -/
  | frameMalformed
  /-- ARBITRATION_LOSS (R130). -/
  | arbitrationLoss
  /-- ARBITRATION_WON (R130). -/
  | arbitrationWon
  /-- LINE_FAULT (R131). -/
  | lineFault
  /-- SEND_COMPLETE (R132). -/
  | sendComplete
  /-- PASSAGE_REQUEST (R144): the handler takes a PASSAGE request from the table. -/
  | passageRequest
  /-- WITHDRAW_REQUEST (R148): the handler takes a WITHDRAW request from the table. -/
  | withdrawRequest
  /-- PASSAGE_RECEIVED (R149): the handler takes a delivered PASSAGE. -/
  | passageReceived
  /-- WITHDRAW_RECEIVED (R154): the handler takes a delivered WITHDRAW. -/
  | withdrawReceived
  /-- BEACON_RECEIVED (R162): the Corridor Time Unit takes a delivered BEACON. -/
  | beaconReceived
  /-- BEACON_TIMER (R178). -/
  | beaconTimer
  /-- ACQUISITION_WAIT_END (R167). -/
  | acquisitionWaitEnd
  /-- REFERENCE_STALE (R171). -/
  | referenceStale
  /-- HOLDOVER_LIMIT (R173). -/
  | holdoverLimit
  /-- LOWER_RECORD_STALE (R173). -/
  | lowerRecordStale
  /-- DET_START_BYTE (R104): a byte 0xD2 completed on the detection line. -/
  | detStartByte
  /-- LINK_START_BYTE (R96): a byte 0xD2 completed on the controller link. -/
  | linkStartByte
  /-- PULSE_NOT_FRAME (R124). -/
  | pulseNotFrame
  /-- CLEAR_FLAGS_PENDING (R196, R198). -/
  | clearFlagsPending (byte : PendingByte)
  /-- ENABLES_FIRST_BYTE_WRITE (R200): the first byte of the enables, at 0x0C. -/
  | enablesFirstByteWrite (first : Byte)
deriving DecidableEq, Repr

end Sys2Proof
end

