-- ==== Sys2Proof/Decode.lean ====
section
/-! DEFINITION. Commands spelled by words. No row of spec/opcode_table.json gives bits ("fields" is empty in each, and
none has a fixed pattern): the part's commands are events, not words, so no word spells one. -/

namespace Sys2Proof

/-- The command that a word spells by the table's bits: none, because no row of the table gives bits. -/
def decodeTableWord (_nbits _w : Nat) : Option Instr := none

end Sys2Proof
end

