-- ==== Sys2Proof/Machine/State.lean ====
section
/-! DEFINITION. The state of the BN24, block by block as section 2 of the introduction divides it, and its state after a hard
reset. Optional fields are the manual's own "absent". The queue `pending` is the model's own: the commands that wait. -/

namespace Sys2Proof.Machine

/-! ### Records of the approach table (chapter 1) -/

/-- The key of a bus on a trip (R2). -/
structure Key where
  vehicle : BitVec 16
  trip    : Byte
deriving DecidableEq, Repr

/-- Confirmation of an entry (R3). -/
inductive Confirmation where
  | forecast
  | confirmed
deriving DecidableEq, Repr

/-- Forecast quality (R45, R46). -/
inductive Quality where
  | good
  | fair
deriving DecidableEq, Repr

/-- The forecast interval at the stop line, in local time (R3). -/
structure Window where
  start : Time
  stop  : Time
deriving DecidableEq, Repr

/-- Service states of an entry (R3). -/
inductive Service where
  | waiting
  | armed
  | offered
  | granted
  | riding
deriving DecidableEq, Repr

/-- Kinds of call (R3, R99). -/
inductive CallKind where
  | extend
  | early
deriving DecidableEq, Repr

/-- The call an entry wants: kind, amount in ds, partial flag (R3, R66). -/
structure Decision where
  kind      : CallKind
  amount    : Nat
  isPartial : Bool
deriving DecidableEq, Repr

/-- The two classes of signal state that a declined mark compares (R61). -/
inductive SignalClass where
  | green
  | notGreen
deriving DecidableEq, Repr

/-- A valid entry of the approach table (R3). -/
structure Entry where
  key          : Key
  confirmation : Confirmation
  approach     : ApproachIx
  chain        : Nat
  grade        : Nat
  window       : Option Window
  quality      : Option Quality
  updated      : Time
  service      : Service
  decision     : Option Decision
  declined     : Option SignalClass
  served       : Bool
deriving DecidableEq, Repr

/-- A record of the recent-departures list (R12). -/
structure Departure where
  key  : Key
  time : Time
deriving DecidableEq, Repr

/-- An entry named by slot index and key together (R4). -/
structure EntryRef where
  slot : SlotIx
  key  : Key
deriving DecidableEq, Repr

/-- What the Forecast Unit returns for a PASSAGE (R30, R151). -/
inductive ForecastResult where
  | timed (window : Window) (quality : Quality) (grade : Nat)
  | untimed (grade : Nat)
  | stale
deriving DecidableEq, Repr

/-- A forecast request of the Corridor Message Handler (R151). -/
structure ForecastRequest where
  key      : Key
  chain    : Nat
  approach : ApproachIx
  result   : ForecastResult
deriving DecidableEq, Repr

/-- A request that waits for the Approach Table (R6). `detection` is the turn of one message of the inbox. -/
inductive TableRequest where
  | detection
  | forecast (request : ForecastRequest)
  | invalidation (key : Key)
  | evaluation (entry : EntryRef)
  | silence
deriving DecidableEq, Repr

/-- The Approach Table: 24 slots (R1), the eviction pointer (R8), recent departures oldest first (R12), and the
requests that have reached the table, in their order (R6). -/
structure ApproachTable where
  slots    : Vector (Option Entry) 24
  evict    : SlotIx
  recent   : List Departure
  requests : List TableRequest
deriving DecidableEq, Repr

/-! ### The Grant Arbiter and the Controller Port (chapter 4) -/

/-- The grant slot's fields while OFFERED (R76). The abandoned flag is set exactly when `entry` is absent. -/
structure Offer where
  id        : Byte
  kind      : CallKind
  amount    : Nat
  isPartial : Bool
  approach  : ApproachIx
  entry     : Option EntryRef
  replyEnd  : Time
deriving DecidableEq, Repr

/-- The grant slot's fields while ACTIVE (R76). -/
structure Grant where
  id         : Byte
  kind       : CallKind
  amount     : Nat
  isPartial  : Bool
  approach   : ApproachIx
  members    : List EntryRef
  edge       : Time
  greenStart : Option Time
  deadline   : Time
deriving DecidableEq, Repr

/-- The grant slot (R76). -/
inductive GrantSlot where
  | free
  | offered (offer : Offer)
  | active (grant : Grant)
deriving DecidableEq, Repr

/-- The Grant Arbiter: the grant slot, the next request id (R77), and the join requests that wait for it (R69, R90). -/
structure GrantArbiter where
  slot   : GrantSlot
  nextId : Byte
  joins  : List EntryRef
deriving DecidableEq, Repr

/-- Signal states of an approach (R59, R203). -/
inductive SignalState where
  | green
  | amber
  | red
  | dark
deriving DecidableEq, Repr

/-- A record of the phase view (R98). -/
structure PhaseRecord where
  state       : SignalState
  toChange    : Nat
  toNextGreen : Nat
  inhibit     : Bool
  received    : Time
deriving DecidableEq, Repr

/-- What a receiver holds of a message it is collecting (R105): the length once known, the bytes so far, and the end
time of the last byte taken. -/
structure Collected where
  length  : Option Byte
  bytes   : List Byte
  lastEnd : Time
deriving DecidableEq, Repr

/-- Framing state of a short-message receiver (R96, R104). -/
inductive Framing where
  | hunting
  | collecting (message : Collected)
deriving DecidableEq, Repr

/-- A message for the signal controller (R99). -/
inductive LinkMessage where
  | call (id : Byte) (approach : ApproachIx) (kind : CallKind) (amount : Nat)
  | clear (id : Byte)
deriving DecidableEq, Repr

/-- The Controller Port: phase view (R98), receiver (R96), silence (R100; the timer is the local time of its last
start, absent while it does not run), and the transmitter with its waiting messages (R99). -/
structure ControllerPort where
  phase        : Vector (Option PhaseRecord) 4
  framing      : Framing
  silent       : Bool
  silenceStart : Option Time
  sending      : Option LinkMessage
  waiting      : List LinkMessage
deriving DecidableEq, Repr

/-! ### The Detection Receiver (chapter 5) -/

/-- A message of the inbox (R114). -/
inductive DetectionMessage where
  | checkIn (point : PointIx) (key : Key) (routeClass : Fin 4) (lateness : Int) (speed : Nat) (skipStop : Bool)
  | checkOut (point : PointIx) (key : Key) (routeClass : Fin 4) (lateness : Int)
  | cancel (key : Key)
deriving DecidableEq, Repr

/-- The Detection Receiver: framing state (R104, R105) and inbox, front first (R113). -/
structure DetectionReceiver where
  framing : Framing
  inbox   : List DetectionMessage
deriving DecidableEq, Repr

/-! ### The Corridor Port (chapter 6) and the Corridor Message Handler (chapter 7) -/

/-- States of the Corridor Port (R125). -/
inductive PortState where
  | off
  | quietWait
  | idle
  | contend
  | send
  | receive
  | silent
deriving DecidableEq, Repr

/-- The two directions of the busway (R188, R205). -/
inductive FlowDirection where
  | outbound
  | inbound
deriving DecidableEq, Repr

/-- The fields of a PASSAGE that are fixed when it is built (R144), and its check-out time (R134). -/
structure PassageFields where
  key        : Key
  routeClass : Fin 4
  lateness   : Int
  chain      : Nat
  direction  : FlowDirection
  next       : Nat
  checkOut   : Time
deriving DecidableEq, Repr

/-- Kind and unstamped payload of a queued frame (R134). -/
inductive FrameBody where
  | beacon
  | passage (fields : PassageFields)
  | withdraw (key : Key)
deriving DecidableEq, Repr

/-- A frame of the transmit queue (R134). `underAttempt` marks the frame under attempt, which stays in the queue. -/
structure QueuedFrame where
  body         : FrameBody
  urgency      : Nat
  entryTime    : Time
  sender       : Nat
  underAttempt : Bool
deriving DecidableEq, Repr

/-- The stamped bits of the attempt in flight (R129), and the local time of its start mark. -/
structure Attempt where
  start   : Time
  header  : Half
  payload : List Byte
  check   : Half
deriving DecidableEq, Repr

/-- A frame being decoded: the local time of its start mark, and whether it is the remainder after a line fault (R128). -/
structure Decoding where
  startMark  : Time
  afterFault : Bool
deriving DecidableEq, Repr

/-- The Corridor Port: state (R125), transmit queue head first (R134), attempt, frame being decoded, and the line's timing:
slot times since the last falling edge, or since QUIET_WAIT began (R123, R126); slot times for which the line has been
recessive, within QUIET_WAIT (R126); and whether a falling edge has been observed during QUIET_WAIT. -/
structure CorridorPort where
  state     : PortState
  queue     : List QueuedFrame
  attempt   : Option Attempt
  decoding  : Option Decoding
  lineTimer : Option Nat
  recessive : Nat
  edgeSeen  : Bool
deriving DecidableEq, Repr

/-- A PASSAGE delivered by the port (R127, R149). -/
structure ReceivedPassage where
  sender     : Nat
  key        : Key
  routeClass : Fin 4
  direction  : FlowDirection
  timed      : Bool
  chain      : Nat
  lateness   : Int
  departure  : Time
  next       : Nat
deriving DecidableEq, Repr

/-- A frame delivered to the Corridor Message Handler (R127). -/
inductive ReceivedFrame where
  | passage (frame : ReceivedPassage)
  | withdraw (sender : Nat) (key : Key)
deriving DecidableEq, Repr

/-- A PASSAGE request of the Approach Table (R18, R19). -/
structure PassageRequest where
  key        : Key
  routeClass : Fin 4
  lateness   : Int
  chain      : Nat
  grade      : Nat
  approach   : ApproachIx
  checkOut   : Time
deriving DecidableEq, Repr

/-- A request of the Approach Table to the handler (R143). -/
inductive HandlerRequest where
  | passage (request : PassageRequest)
  | withdraw (key : Key)
deriving DecidableEq, Repr

/-- The items that wait for the handler, which itself holds no state (R143): the table's requests and the port's
frames, each in its order. -/
structure MessageHandler where
  requests : List HandlerRequest
  frames   : List ReceivedFrame
deriving DecidableEq, Repr

/-! ### The Corridor Time Unit (chapter 8) -/

/-- Lock states (R165). -/
inductive LockState where
  | off
  | acquiring
  | coarse
  | fine
  | holdover
  | free
deriving DecidableEq, Repr

/-- A record of the peer table (R161). -/
structure Peer where
  station : Nat
  last    : Time
  lock    : LockState
deriving DecidableEq, Repr

/-- A BEACON delivered by the port (R162): sender, payload fields, local time of its start mark. -/
structure ReceivedBeacon where
  station   : Nat
  time      : Time
  lock      : Byte
  reference : Nat
  startMark : Time
deriving DecidableEq, Repr

/-- Line rates of the corridor line (R119, R183). -/
inductive LineRate where
  | r4800
  | r9600
  | r19200
deriving DecidableEq, Repr

/-- What a RELOAD saves of the lock (R180). -/
structure SavedLock where
  lock      : LockState
  reference : Nat
  fine      : Nat
  miss      : Nat
  holdStart : Option Time
deriving DecidableEq, Repr

/-- The Corridor Time Unit: offset (R160), lock state, reference and counts (R165), peer table (R161), the recorded
starts of the acquisition wait, the holdover period and the beacon timer (R159), the saved state and the noted station
and line rate (R180), and the delivered beacons that wait (R162). -/
structure TimeUnit where
  offset      : Time
  lock        : LockState
  reference   : Nat
  fine        : Nat
  miss        : Nat
  peers       : List Peer
  acqStart    : Option Time
  holdStart   : Option Time
  beaconStart : Option Time
  saved       : Option SavedLock
  noted       : Option (Nat × LineRate)
  beacons     : List ReceivedBeacon
deriving DecidableEq, Repr

/-! ### The Configuration Loader (chapter 9) -/

/-- Roles of an approach (R188). -/
inductive Role where
  | cross
  | outbound
  | inbound
deriving DecidableEq, Repr

/-- An approach record as held (R189): E_max, T_max and dwell in ds, speeds in dm/s, spread in percent. -/
structure ApproachRecord where
  role     : Role
  nearSide : Bool
  enabled  : Bool
  eMax     : Nat
  tMax     : Nat
  vMin     : Nat
  vMax     : Nat
  dwell    : Nat
  spread   : Nat
deriving DecidableEq, Repr

/-- Kinds of detection point (R188). -/
inductive PointKind where
  | checkIn
  | checkOut
deriving DecidableEq, Repr

/-- A point record as held (R189): distance in m, nominal speed in dm/s. -/
structure PointRecord where
  approach  : ApproachIx
  kind      : PointKind
  stopAhead : Bool
  distance  : Nat
  nominal   : Nat
deriving DecidableEq, Repr

/-- A link record as held (R189): link time in ds, spread in percent; station 0 means none. -/
structure LinkRecord where
  approach   : ApproachIx
  upstream   : Nat
  downstream : Nat
  linkTime   : Nat
  spread     : Nat
deriving DecidableEq, Repr

/-- The parameter block as held (R186). -/
structure Parameters where
  beaconInterval   : Nat
  referenceTimeout : Nat
  holdoverLimit    : Nat
  sendBudget       : Nat
  staleLimit       : Nat
  untimedLife      : Nat
  margin           : Nat
  grace            : Nat
  ahead            : Nat
  chainLimit       : Nat
  lockEventMode    : Nat
  enables          : Half
deriving DecidableEq, Repr

/-- The defaults of section 9.3 (R186). -/
def Parameters.defaults : Parameters :=
  { beaconInterval := 20, referenceTimeout := 70, holdoverLimit := 600, sendBudget := 20, staleLimit := 300,
    untimedLife := 1800, margin := 20, grace := 30, ahead := 60, chainLimit := 0, lockEventMode := 0, enables := 0 }

/-- A configuration (R183); station 0 means that none has been installed. -/
structure Configuration where
  station    : Nat
  rate       : LineRate
  params     : Parameters
  approaches : Vector (Option ApproachRecord) 4
  points     : Vector (Option PointRecord) 16
  outbound   : Option LinkRecord
  inbound    : Option LinkRecord
  weights    : Vector Nat 4
deriving DecidableEq, Repr

/-- The contents of a fresh working copy (R183). -/
def Configuration.fresh : Configuration :=
  { station := 0, rate := .r19200, params := .defaults, approaches := Vector.replicate 4 none,
    points := Vector.replicate 16 none, outbound := none, inbound := none, weights := #v[2, 3, 4, 0] }

/-- Run states (R182). -/
inductive RunState where
  | loading
  | running
  | unconfigured
deriving DecidableEq, Repr

/-- Where the load's sequential read stands (R184 to R187): no load in progress; addressing the memory, with byte 0 next;
then the part that is read next. `records` holds the counted records still to read and the byte position of the next. -/
inductive LoadPhase where
  | none
  | addressing
  | identity
  | parameters
  | tableMark
  | records (remaining : Nat) (position : Nat)
deriving DecidableEq, Repr

/-- The Configuration Loader: run state (R182), read position, the two configurations (R183), the site code (R183). -/
structure Loader where
  run      : RunState
  phase    : LoadPhase
  inForce  : Configuration
  working  : Configuration
  siteCode : Half
deriving DecidableEq, Repr

/-! ### The Maintenance Port and Event Flags (chapter 10) -/

/-- The 27 counters (R199), in the order of the maintenance window (R208). -/
inductive Counter where
  | detBad
  | detOverflow
  | detUnknownPoint
  | detDuplicate
  | checkoutUnmatched
  | tableRefused
  | tableEvicted
  | busMissed
  | forecastUnconfirmed
  | forecastInvalidated
  | forecastDiscarded
  | callsOffered
  | callsAccepted
  | callsDeclined
  | replyTimeouts
  | lateAccepts
  | grantOverruns
  | controllerSilences
  | linkBad
  | framesSent
  | framesReceived
  | frameCheckErrors
  | arbitrationLosses
  | lineFaults
  | sendDiscards
  | referenceChanges
  | timeSteps
deriving DecidableEq, Repr

/-- The 10 event flags (R199), in the order of their bit positions (R208). -/
inductive Flag where
  | loadFault
  | loadOverflow
  | tableFormat
  | clash
  | controllerSilent
  | lockEvent
  | holdover
  | tableFull
  | inboxOverflow
  | grantOverrun
deriving DecidableEq, Repr

/-- The transfer on the maintenance bus (R194): none, one of another address (the general call too), which the port ignores,
or one of this port. `addressSet` tells whether the first data byte of a write transfer has come. -/
inductive Transfer where
  | idle
  | foreign
  | writing (addressSet : Bool)
  | reading
deriving DecidableEq, Repr

/-- The CLEAR FLAGS command being received (R198): none, waiting for its first or for its second mask byte. -/
inductive MaskWait where
  | none
  | first
  | second (firstByte : Byte)
deriving DecidableEq, Repr

/-- Command status (R196, R208). -/
inductive CommandStatus where
  | idle
  | done
  | busy
  | refused
deriving DecidableEq, Repr

/-- The read latch's contents (R195): the field, by the address of its first byte, and both its bytes. -/
structure Latch where
  field : Byte
  value : Half
deriving DecidableEq, Repr

/-- The maintenance block: counters and flags (R199), attention enables (R200), internal address and address pins as
sampled (R194), the transfer in progress, the held first byte of the enables (R200) and of CLEAR FLAGS (R198), the read
latch (R195), the command byte and its status (R196), and the last byte the port put on MSDA (absent: none yet). -/
structure Maintenance where
  counters     : Vector Half 27
  flags        : Half
  enables      : Half
  address      : Byte
  madr         : BitVec 2
  transfer     : Transfer
  enablesFirst : Option Byte
  maskWait     : MaskWait
  latch        : Option Latch
  command      : Byte
  status       : CommandStatus
  readData     : Option Byte
deriving DecidableEq, Repr

/-! ### The unit and the machine -/

/-- The whole BN24. `resetHeld` is true while the hard reset is in force (power-on, or RSTN low: R191); `localTime` is the
free-running count of ds (R159). -/
structure Bn24 where
  resetHeld  : Bool
  localTime  : Time
  table      : ApproachTable
  arbiter    : GrantArbiter
  controller : ControllerPort
  detection  : DetectionReceiver
  port       : CorridorPort
  handler    : MessageHandler
  clock      : TimeUnit
  loader     : Loader
  maint      : Maintenance
deriving DecidableEq, Repr

/-- The machine: the commands that wait, first in first out (the model's own field), and the unit they act on. -/
structure State where
  pending : List Instr
  unit    : Bn24
deriving DecidableEq, Repr

/-- The model has no fault: the manual gives every command an effect in every state, and nothing stops the part. -/
inductive Fault where
deriving DecidableEq, Repr

/-- Refusals. -/
inductive Refusal where
  /-- Raised only by an arm of exec whose command has no meaning yet. Safe: nothing is claimed of it. No arm is so. -/
  | notModelled (mnemonic : String)
deriving DecidableEq, Repr

/-- The state of every block that a hard reset gives (R191, with R28, R77, R102, R117, R142, R181, R183, R201). No maintenance
transfer is open, whatever was on the bus before (DESIGN CHOICE, assumption 26). -/
def Bn24.reset : Bn24 :=
  { resetHeld := true
    localTime := 0
    table := { slots := Vector.replicate 24 none, evict := 0, recent := [], requests := [] }
    arbiter := { slot := .free, nextId := 1, joins := [] }
    controller :=
      { phase := Vector.replicate 4 none, framing := .hunting, silent := false, silenceStart := none,
        sending := none, waiting := [] }
    detection := { framing := .hunting, inbox := [] }
    port := { state := .off, queue := [], attempt := none, decoding := none, lineTimer := none,
              recessive := 0, edgeSeen := false }
    handler := { requests := [], frames := [] }
    clock :=
      { offset := 0, lock := .off, reference := 0, fine := 0, miss := 0, peers := [], acqStart := none,
        holdStart := none, beaconStart := none, saved := none, noted := none, beacons := [] }
    loader := { run := .loading, phase := .none, inForce := .fresh, working := .fresh, siteCode := 0 }
    maint :=
      { counters := Vector.replicate 27 0, flags := 0, enables := 0, address := 0, madr := 0, transfer := .idle,
        enablesFirst := none, maskWait := .none, latch := none, command := 0, status := .idle, readData := none } }

/-- The machine right after reset: the unit in its hard-reset state, with the reset still in force and no command waiting. -/
def State.reset : State := { pending := [], unit := .reset }

end Sys2Proof.Machine
end

