-- ==== Sys2Proof/Machine/Flags.lean ====
section
/-! DEFINITION. Counters, event flags and the attention line (sections 3.5, 10.3, 10.4). -/

namespace Sys2Proof.Machine

/-- A counter's place in the maintenance window's order (R208). -/
def Counter.ix : Counter → Fin 27
  | .detBad => 0
  | .detOverflow => 1
  | .detUnknownPoint => 2
  | .detDuplicate => 3
  | .checkoutUnmatched => 4
  | .tableRefused => 5
  | .tableEvicted => 6
  | .busMissed => 7
  | .forecastUnconfirmed => 8
  | .forecastInvalidated => 9
  | .forecastDiscarded => 10
  | .callsOffered => 11
  | .callsAccepted => 12
  | .callsDeclined => 13
  | .replyTimeouts => 14
  | .lateAccepts => 15
  | .grantOverruns => 16
  | .controllerSilences => 17
  | .linkBad => 18
  | .framesSent => 19
  | .framesReceived => 20
  | .frameCheckErrors => 21
  | .arbitrationLosses => 22
  | .lineFaults => 23
  | .sendDiscards => 24
  | .referenceChanges => 25
  | .timeSteps => 26

/-- A flag's bit position (R208). -/
def Flag.bit : Flag → Nat
  | .loadFault => 0
  | .loadOverflow => 1
  | .tableFormat => 2
  | .clash => 3
  | .controllerSilent => 4
  | .lockEvent => 5
  | .holdover => 6
  | .tableFull => 7
  | .inboxOverflow => 8
  | .grantOverrun => 9

/-- An increment saturates at 65,535 (R199). -/
def satInc (x : Half) : Half := if x = 0xFFFF then x else x + 1

/-- The value of a counter. -/
def counterOf (c : Counter) (u : Bn24) : Half := u.maint.counters[c.ix]

/-- Whether an event flag is set. -/
def flagSet (f : Flag) (u : Bn24) : Bool := u.maint.flags.getLsbD f.bit

/-- The event "counts" a name (section 3.5, R199). -/
def count (c : Counter) (u : Bn24) : Bn24 :=
  { u with maint := { u.maint with counters := u.maint.counters.set c.ix (satInc u.maint.counters[c.ix]) } }

/-- `n` events count a name one after the other. -/
def countTimes (c : Counter) : Nat → Bn24 → Bn24
  | 0, u => u
  | n + 1, u => countTimes c n (count c u)

/-- The event "flags" a name (section 3.5, R199). -/
def flag (f : Flag) (u : Bn24) : Bn24 :=
  { u with maint := { u.maint with flags := u.maint.flags ||| (1#16 <<< f.bit) } }

/-- The level of ATTN (R200): high while a set flag is enabled, low while RSTN is held low. -/
def attn (u : Bn24) : Bool := !u.resetHeld && decide (u.maint.flags &&& u.maint.enables ≠ 0)

end Sys2Proof.Machine
end

