-- ==== Sys2Proof/Machine/Ops.lean ====
section
/-! DEFINITION. Operations that the blocks share: times and amounts (sections 3.3, 3.4), the approach table's slots, requests
between blocks, and the form of a meaning. -/

namespace Sys2Proof.Machine

/-! ### Times and amounts -/

/-- The signed modular difference x - y (section 3.3), from -8,388,608 to 8,388,607. -/
def timeDiff (x y : Time) : Int := (x - y).toInt

/-- x is later than y (section 3.3). -/
def later (x y : Time) : Bool := decide (0 < timeDiff x y)

/-- x is earlier than y (section 3.3). -/
def earlier (x y : Time) : Bool := decide (timeDiff x y < 0)

/-- The later of two times (R38, R44). -/
def laterOf (x y : Time) : Time := if later y x then y else x

/-- A count of ds as a time, modulo 2^24. -/
def ds (n : Nat) : Time := BitVec.ofNat 24 n

/-- The age of a recorded time at local time `now` (section 3.3). -/
def age (now recorded : Time) : Int := timeDiff now recorded

/-- The least whole number not less than a / b (section 3.4). -/
def ceilDiv (a b : Nat) : Nat := (a + b - 1) / b

/-- The least multiple of 10 not less than n (section 3.4). -/
def roundUpTen (n : Nat) : Nat := ceilDiv n 10 * 10

/-- Clamping into a range (section 3.4). -/
def clamp (lo hi x : Nat) : Nat := if x < lo then lo else if hi < x then hi else x

/-- Clamping of a signed quantity into a range (section 3.4). -/
def clampInt (lo hi x : Int) : Int := if x < lo then lo else if hi < x then hi else x

/-! ### The form of a meaning -/

/-- A command's outcome: its effect on the unit, and none while the hard reset is in force (R191: the reset holds every
block in its hard-reset state). The queue of waiting commands is left alone. -/
def unlessReset (f : Bn24 → Bn24) (s : State) : Host.Outcome State Fault Refusal :=
  .next { s with unit := if s.unit.resetHeld then s.unit else f s.unit }

/-- The run state is RUNNING. -/
def isRunning (u : Bn24) : Bool := decide (u.loader.run = .running)

/-- The parameters in force (R183). -/
def paramsOf (u : Bn24) : Parameters := u.loader.inForce.params

/-- The approach record in force of an approach, if any. -/
def approachRecord (u : Bn24) (a : ApproachIx) : Option ApproachRecord := u.loader.inForce.approaches[a]

/-- The point record in force of a point, if any. -/
def pointRecord (u : Bn24) (p : PointIx) : Option PointRecord := u.loader.inForce.points[p]

/-- The link record in force of a direction, if any. -/
def linkRecord (u : Bn24) : FlowDirection → Option LinkRecord
  | .outbound => u.loader.inForce.outbound
  | .inbound => u.loader.inForce.inbound

/-! ### Slots of the approach table -/

/-- The entry in a slot. -/
def entryIn (u : Bn24) (i : SlotIx) : Option Entry := u.table.slots[i]

/-- Writes a slot: an entry, or empty. -/
def setSlot (i : SlotIx) (e : Option Entry) (u : Bn24) : Bn24 :=
  { u with table := { u.table with slots := u.table.slots.set i e } }

/-- The entry that a request names by slot index and key together; none if the slot is empty or holds another key (R4). -/
def entryAt (u : Bn24) (r : EntryRef) : Option Entry :=
  match entryIn u r.slot with
  | some e => if e.key = r.key then some e else none
  | none => none

/-- Whether a slot holds an entry with this key (R2). -/
def slotHasKey (u : Bn24) (k : Key) (i : SlotIx) : Bool :=
  match entryIn u i with
  | some e => decide (e.key = k)
  | none => false

/-- The slot of the entry that holds a key (R2: at most one does). -/
def findKey (u : Bn24) (k : Key) : Option SlotIx := (List.finRange 24).find? (slotHasKey u k)

/-- Whether a slot is empty. -/
def slotEmpty (u : Bn24) (i : SlotIx) : Bool := (entryIn u i).isNone

/-- The lowest-index empty slot (R7). -/
def lowestEmpty (u : Bn24) : Option SlotIx := (List.finRange 24).find? (slotEmpty u)

/-- The table occupancy (R1). -/
def occupancy (u : Bn24) : Nat := (List.finRange 24).countP (fun i => !slotEmpty u i)

/-- An entry back in WAITING with its decision removed (R3). -/
def toWaiting (e : Entry) : Entry := { e with service := .waiting, decision := none }

/-- Whether the service state is WAITING or ARMED, the states that are evaluated (R54). -/
def evaluable (e : Entry) : Bool := decide (e.service = .waiting) || decide (e.service = .armed)

/-! ### Requests between blocks -/

/-- Requests reach the table at the back of those waiting; outside RUNNING they are discarded (R6, R28). -/
def sendTable (rs : List TableRequest) (u : Bn24) : Bn24 :=
  if isRunning u then { u with table := { u.table with requests := u.table.requests ++ rs } } else u

/-- The evaluations of the WAITING and ARMED entries that a test selects, in ascending slot order (R56, R57, R58). -/
def evaluationsOf (p : Entry → Bool) (u : Bn24) : List TableRequest :=
  (List.finRange 24).filterMap fun i =>
    match entryIn u i with
    | some e => if evaluable e && p e then some (.evaluation { slot := i, key := e.key }) else none
    | none => none

/-- Requests the evaluations of the WAITING and ARMED entries on an approach (R56, R57). -/
def evaluateApproach (a : ApproachIx) (u : Bn24) : Bn24 :=
  sendTable (evaluationsOf (fun e => decide (e.approach = a)) u) u

/-- The arbiter hands a message to the transmitter, which begins it at once if it is sending nothing (R99). -/
def handLink (m : LinkMessage) (u : Bn24) : Bn24 :=
  match u.controller.sending with
  | none => { u with controller := { u.controller with sending := some m } }
  | some _ => { u with controller := { u.controller with waiting := u.controller.waiting ++ [m] } }

/-- The table sends the Corridor Message Handler a request (R143). -/
def sendHandler (r : HandlerRequest) (u : Bn24) : Bn24 :=
  { u with handler := { u.handler with requests := u.handler.requests ++ [r] } }

end Sys2Proof.Machine
end

