-- ==== Sys2Proof/Machine/Framing.lean ====
section
/-! DEFINITION. The receivers' framing of bytes (R96, R104, R105), which the detection line and the controller link share. -/

namespace Sys2Proof.Machine

/-- A receiver that has just taken a start byte: nothing known yet (R105). -/
def collectingFrom (now : Time) : Framing := .collecting { length := none, bytes := [], lastEnd := now }

/-- Whether a receiver is collecting a message. -/
def isCollecting : Framing → Bool
  | .hunting => false
  | .collecting _ => true

/-- The receiver has taken the start byte and waits for the length byte. -/
def awaitsLength : Framing → Bool
  | .hunting => false
  | .collecting m => m.length.isNone

/-- A length byte outside 1 to 16 (R96, R104). -/
def lengthOutside (length : Byte) : Bool := decide (length.toNat < 1) || decide (16 < length.toNat)

/-- Whole ds since the end of the last byte of a message being collected, if they reach a number (R105, R106). -/
def idleFor (n : Int) (now : Time) : Framing → Bool
  | .hunting => false
  | .collecting m => decide (n ≤ age now m.lastEnd)

/-- More than 20 bit times have passed since the last byte taken, whenever in its ds that ended: a whole ds, 1,920 bit times, lies
between (R106). -/
def gapPassed (now : Time) (f : Framing) : Bool := idleFor 2 now f

/-- The line stays idle after an incomplete message: the ds of its last byte is over and no command brings another. The manual
counts 20 bit times, a little over 1 ms, and the model whole ds (R106, assumption 15). -/
def idleLine (now : Time) (f : Framing) : Bool := idleFor 1 now f

/-- What a byte makes of a receiver (R104): it goes on, hunting or collecting; the message is dropped for its length; or the
byte is the check byte and the message has been received whole. -/
inductive ByteOutcome where
  | goesOn (framing : Framing)
  | dropped
  | whole (payload : List Byte) (check : Byte)
deriving DecidableEq, Repr

/-- A byte within a message: the length, then as many bytes as it says, then the check. The end time of each byte taken is the
present (R104, R105). -/
def takeByte (now : Time) (b : Byte) (m : Collected) : ByteOutcome :=
  match m.length with
  | none => if lengthOutside b then .dropped else .goesOn (.collecting { m with length := some b, lastEnd := now })
  | some n =>
    if m.bytes.length < n.toNat then .goesOn (.collecting { m with bytes := m.bytes ++ [b], lastEnd := now })
    else .whole m.bytes b

/-- A byte on the line: while hunting, the start byte begins a message and any other is discarded (R96, R104). -/
def nextByte (now : Time) (b : Byte) : Framing → ByteOutcome
  | .hunting => .goesOn (if b = Config.startByte then collectingFrom now else .hunting)
  | .collecting m => takeByte now b m

end Sys2Proof.Machine
end

