-- ==== Sys2Proof/Machine/Operands.lean ====
section
/-! DEFINITION. The formats of chapter 11: short messages, corridor frames and records of the configuration image, as the
unit parses and builds them (R202 to R207). -/

namespace Sys2Proof.Machine

/-! ### Bytes -/

/-- The bits of a byte on a serial line in the order sent: the start bit (space), the data bits with the least significant
first, the stop bit (mark) (R103, R202). -/
def serialBits (b : Byte) : List Bool := false :: ((List.range 8).map b.getLsbD ++ [true])

/-- The byte that serial data bits spell, the first the least significant (R202). -/
def serialByte (bits : List Bool) : Byte := BitVec.ofNat 8 (bits.foldr (fun b n => b.toNat + 2 * n) 0)

/-- Byte n of a body, counted from 0. -/
def byteAt (bytes : List Byte) (n : Nat) : Byte := bytes.getD n 0

/-- A two-byte field at position n, most significant byte first (R202). -/
def halfAt (bytes : List Byte) (n : Nat) : Half := byteAt bytes n ++ byteAt bytes (n + 1)

/-- A three-byte corridor time at position n, most significant byte first (R202). -/
def timeAt (bytes : List Byte) (n : Nat) : Time := byteAt bytes n ++ byteAt bytes (n + 1) ++ byteAt bytes (n + 2)

/-- The three bytes of a time, most significant first (R202). -/
def timeBytes (t : Time) : List Byte := [t.extractLsb' 16 8, t.extractLsb' 8 8, t.extractLsb' 0 8]

/-- The two bytes of a two-byte field, most significant first (R202). -/
def halfBytes (h : Half) : List Byte := [h.extractLsb' 8 8, h.extractLsb' 0 8]

/-- A number 1 to n as an index, none if it lies outside. -/
def indexOf (n : Nat) (b : Byte) : Option (Fin n) :=
  if h : 1 ≤ b.toNat ∧ b.toNat ≤ n then some ⟨b.toNat - 1, by omega⟩ else none

/-- An approach number (R188, R203). -/
def approachOf (b : Byte) : Option ApproachIx := indexOf 4 b

/-- A point number (R110, R188). -/
def pointOf (b : Byte) : Option PointIx := indexOf 16 b

/-- The number that an approach index stands for. -/
def approachNumber (a : ApproachIx) : Nat := a.val + 1

/-! ### Short messages (section 11.2) -/

/-- The sum of bytes modulo 256. -/
def sumBytes (bytes : List Byte) : Byte := bytes.foldl (· + ·) 0

/-- The sum of the length, kind, body and check bytes is 0 modulo 256 (R97, R107, R204). -/
def sumOk (payload : List Byte) (check : Byte) : Bool :=
  decide (BitVec.ofNat 8 payload.length + sumBytes payload + check = 0)

/-- The kind, length and body of a message for the controller (R203): its payload. -/
def LinkMessage.payload : LinkMessage → List Byte
  | .call id a k amount =>
    [0x51, id, BitVec.ofNat 8 (approachNumber a), (match k with | .extend => 1 | .early => 2)]
      ++ halfBytes (BitVec.ofNat 16 amount)
  | .clear id => [0x52, id]

/-- The bytes on the line of a message for the controller, with its check byte (R203, R204). -/
def LinkMessage.bytes (m : LinkMessage) : List Byte :=
  let length := BitVec.ofNat 8 m.payload.length
  Config.startByte :: length :: (m.payload ++ [0 - (length + sumBytes m.payload)])

/-- A message from the controller (R203). -/
inductive ControllerMessage where
  | phaseStatus (approach : ApproachIx) (state : SignalState) (toChange toNextGreen : Nat) (inhibit : Bool)
  | accept (id : Byte)
  | decline (id : Byte)
deriving DecidableEq, Repr

/-- The code of a signal state (R203). -/
def signalOf (b : Byte) : Option SignalState :=
  if b = 1 then some .green
  else if b = 2 then some .amber
  else if b = 3 then some .red
  else if b = 4 then some .dark
  else none

/-- The checks of R97 in their order; none if one fails. -/
def parseController (payload : List Byte) (check : Byte) : Option ControllerMessage :=
  if sumOk payload check = false then none
  else
    let kind := byteAt payload 0
    if kind = 0x41 then
      if payload.length ≠ 8 then none
      else
        match approachOf (byteAt payload 1), signalOf (byteAt payload 2) with
        | some a, some st =>
          some (.phaseStatus a st (halfAt payload 3).toNat (halfAt payload 5).toNat ((byteAt payload 7).getLsbD 0))
        | _, _ => none
    else if kind = 0x42 then
      if payload.length ≠ 2 ∨ byteAt payload 1 = 0 then none else some (.accept (byteAt payload 1))
    else if kind = 0x43 then
      if payload.length ≠ 2 ∨ byteAt payload 1 = 0 then none else some (.decline (byteAt payload 1))
    else none

/-- What the tests of R107 make of a detection message, up to the test for room: a drop with its counter, or a message. -/
inductive DetectionParse where
  | drop (counter : Counter)
  | good (message : DetectionMessage)
deriving DecidableEq, Repr

/-- A vehicle number that no bus has (R109). -/
def badVehicle (v : BitVec 16) : Bool := decide (v = 0) || decide (v = 0xFFFF)

/-- The point of a message passes R110: 1 to 16, loaded, and of the kind of the message. -/
def pointPasses (u : Bn24) (kind : PointKind) (b : Byte) : Option (PointIx × PointRecord) :=
  match pointOf b with
  | none => none
  | some p =>
    match pointRecord u p with
    | none => none
    | some r => if r.kind = kind then some (p, r) else none

/-- Speed bounds of an approach; 20 and 300 dm/s where it has no record (R31, R111). -/
def speedBounds (u : Bn24) (a : ApproachIx) : Nat × Nat :=
  match approachRecord u a with
  | some r => (r.vMin, r.vMax)
  | none => (20, 300)

/-- A measured speed other than 0 clamped into the bounds of the approach (R111). -/
def clampSpeed (u : Bn24) (a : ApproachIx) (v : Nat) : Nat :=
  if v = 0 then 0 else clamp (speedBounds u a).1 (speedBounds u a).2 v

/-- A lateness clamped into -600 to +600 s (R48, R111). -/
def clampLateness (l : Int) : Int := clampInt (-600) 600 l

/-- Tests 1 to 6 of R107 in their order, then the clamps of R111. -/
def parseDetection (u : Bn24) (payload : List Byte) (check : Byte) : DetectionParse :=
  if sumOk payload check = false then .drop .detBad
  else
    let kind := byteAt payload 0
    if kind = 0x31 then
      if payload.length ≠ 11 then .drop .detBad
      else if badVehicle (halfAt payload 2) then .drop .detBad
      else if h : (byteAt payload 5).toNat < 4 then
        match pointPasses u .checkIn (byteAt payload 1) with
        | none => .drop .detUnknownPoint
        | some (p, r) =>
          .good (.checkIn p { vehicle := halfAt payload 2, trip := byteAt payload 4 } ⟨(byteAt payload 5).toNat, h⟩
            (clampLateness (halfAt payload 6).toInt) (clampSpeed u r.approach (halfAt payload 8).toNat)
            ((byteAt payload 10).getLsbD 0))
      else .drop .detBad
    else if kind = 0x32 then
      if payload.length ≠ 8 then .drop .detBad
      else if badVehicle (halfAt payload 2) then .drop .detBad
      else if h : (byteAt payload 5).toNat < 4 then
        match pointPasses u .checkOut (byteAt payload 1) with
        | none => .drop .detUnknownPoint
        | some (p, _) =>
          .good (.checkOut p { vehicle := halfAt payload 2, trip := byteAt payload 4 } ⟨(byteAt payload 5).toNat, h⟩
            (clampLateness (halfAt payload 6).toInt))
      else .drop .detBad
    else if kind = 0x33 then
      if payload.length ≠ 4 then .drop .detBad
      else if badVehicle (halfAt payload 1) then .drop .detBad
      else .good (.cancel { vehicle := halfAt payload 1, trip := byteAt payload 3 })
    else .drop .detBad

/-! ### Corridor frames (section 11.3) -/

/-- The bits of a word, most significant first (R202). -/
def bitsOf (w : Nat) (x : BitVec w) : List Bool := (List.range w).map x.getMsbD

/-- The bits over which the check of a frame is formed: header, then payload (R206). -/
def frameBits (header : Half) (payload : List Byte) : List Bool := bitsOf 16 header ++ payload.flatMap (bitsOf 8)

/-- One bit of the check (R206). -/
def crcStep (r : Half) (bit : Bool) : Half :=
  if bit != r.msb then (r <<< 1) ^^^ 0x1021 else r <<< 1

/-- The check register over a run of bits, from all ones (R206). -/
def crcBits (bits : List Bool) : Half := bits.foldl crcStep 0xFFFF

/-- The check of a frame (R206). -/
def frameCheck (header : Half) (payload : List Byte) : Half := crcBits (frameBits header payload)

/-- Header fields (R205). -/
def headerUrgency (h : Half) : Nat := (h.extractLsb' 13 3).toNat

/-- The kind code of a header (R205). -/
def headerKind (h : Half) : Nat := (h.extractLsb' 10 3).toNat

/-- The sender station of a header (R205). -/
def headerSender (h : Half) : Nat := (h.extractLsb' 4 6).toNat

/-- The payload length of a header (R205). -/
def headerLength (h : Half) : Nat := (h.extractLsb' 0 4).toNat

/-- A header from its fields (R205). -/
def makeHeader (urgency kind sender length : Nat) : Half :=
  BitVec.ofNat 3 urgency ++ BitVec.ofNat 3 kind ++ BitVec.ofNat 6 sender ++ BitVec.ofNat 4 length

/-- The payload length of a kind (R121, R127). -/
def kindLength (kind : Nat) : Option Nat :=
  if kind = 1 then some 5 else if kind = 2 then some 10 else if kind = 3 then some 3 else none

/-- The kind code of a frame (R121). -/
def FrameBody.kind : FrameBody → Nat
  | .beacon => 1
  | .passage _ => 2
  | .withdraw _ => 3

/-- The code of a lock state (R205). -/
def LockState.code : LockState → Byte
  | .off => 0
  | .acquiring => 1
  | .coarse => 2
  | .fine => 3
  | .holdover => 4
  | .free => 5

/-- The lock state that a code names (R205). -/
def lockOf (b : Byte) : Option LockState :=
  if b = 0 then some .off
  else if b = 1 then some .acquiring
  else if b = 2 then some .coarse
  else if b = 3 then some .fine
  else if b = 4 then some .holdover
  else if b = 5 then some .free
  else none

/-- The unit has a time quality of fair or good (R45, R146). -/
def hasTimeQuality : LockState → Bool
  | .off => false
  | .acquiring => false
  | .coarse => true
  | .fine => true
  | .holdover => true
  | .free => true

/-- The payload of a frame, stamped at the start mark with local time `now` (R129, R146, R179, R205). -/
def stampedPayload (u : Bn24) (body : FrameBody) : List Byte :=
  match body with
  | .beacon =>
    timeBytes (u.localTime + u.clock.offset) ++ [u.clock.lock.code, BitVec.ofNat 8 u.clock.reference]
  | .passage f =>
    halfBytes f.key.vehicle
      ++ [f.key.trip,
          BitVec.ofNat 2 f.routeClass.val
            ++ BitVec.ofBool (decide (f.direction = .inbound))
            ++ BitVec.ofBool (hasTimeQuality u.clock.lock)
            ++ BitVec.ofNat 4 f.chain]
      ++ halfBytes (BitVec.ofInt 16 f.lateness)
      ++ timeBytes (f.checkOut + u.clock.offset)
      ++ [BitVec.ofNat 8 f.next]
  | .withdraw k => halfBytes k.vehicle ++ [k.trip]

/-- The header of a queued frame (R205). -/
def queuedHeader (f : QueuedFrame) : Half :=
  makeHeader f.urgency f.body.kind f.sender ((kindLength f.body.kind).getD 0)

/-- The header alone shows an unknown kind, a length above 12, or a length that does not match the kind (R127). -/
def badHeader (h : Half) : Bool :=
  decide (12 < headerLength h) || decide (kindLength (headerKind h) ≠ some (headerLength h))

/-- The tests of R127 on a frame received whole. -/
def frameValid (header : Half) (payload : List Byte) (check : Half) : Bool :=
  !badHeader header && decide (payload.length = headerLength header)
    && decide (frameCheck header payload = check)
    && decide (1 ≤ headerSender header) && decide (headerSender header ≤ 60)

/-- The PASSAGE that a valid frame carries (R205). -/
def passageOf (sender : Nat) (payload : List Byte) : ReceivedPassage :=
  let packed := byteAt payload 3
  { sender := sender
    key := { vehicle := halfAt payload 0, trip := byteAt payload 2 }
    routeClass := (packed.extractLsb' 6 2).toFin
    direction := if packed.getLsbD 5 then .inbound else .outbound
    timed := packed.getLsbD 4
    chain := (packed.extractLsb' 0 4).toNat
    lateness := (halfAt payload 4).toInt
    departure := timeAt payload 6
    next := (byteAt payload 9).toNat }

/-- The BEACON that a valid frame carries (R205). -/
def beaconOf (sender : Nat) (payload : List Byte) (startMark : Time) : ReceivedBeacon :=
  { station := sender, time := timeAt payload 0, lock := byteAt payload 3,
    reference := (byteAt payload 4).toNat, startMark := startMark }

/-! ### The configuration image (section 11.4, R186 to R189) -/

/-- The line rate that a code selects (R185). -/
def rateOf (b : Byte) : LineRate := if b = 0 then .r4800 else if b = 1 then .r9600 else .r19200

/-- Parameters from bytes 6 to 23, each clamped (R186, R207). -/
def parseParameters (block : List Byte) : Parameters :=
  { beaconInterval := clamp 10 100 (byteAt block 0).toNat
    referenceTimeout := clamp 30 1000 (halfAt block 1).toNat
    holdoverLimit := clamp 100 6000 (halfAt block 3).toNat
    sendBudget := clamp 5 50 (byteAt block 5).toNat
    staleLimit := clamp 100 1200 (halfAt block 6).toNat
    untimedLife := clamp 300 6000 (halfAt block 8).toNat
    margin := clamp 0 50 (byteAt block 10).toNat
    grace := clamp 0 100 (byteAt block 11).toNat
    ahead := clamp 0 120 (byteAt block 12).toNat
    chainLimit := clamp 0 15 (byteAt block 13).toNat
    lockEventMode := clamp 0 3 (byteAt block 14).toNat
    enables := halfAt block 15 }

/-- The body length that a record type fixes; none for an unknown type (R187). -/
def bodyLength (type : Byte) : Option Nat :=
  if type = 1 then some 11 else if type = 2 then some 6 else if type = 3 then some 7 else if type = 4 then some 4
  else none

/-- A role, its top bit removed (R188). -/
def roleOf (b : Byte) : Option Role :=
  let r := b &&& 0x7F
  if r = 0 then some .cross else if r = 1 then some .outbound else if r = 2 then some .inbound else none

/-- A point kind, its top bit removed (R188). -/
def pointKindOf (b : Byte) : Option PointKind :=
  let k := b &&& 0x7F
  if k = 1 then some .checkIn else if k = 2 then some .checkOut else none

/-- An approach record: the tests of R188, then the clamps of R189. -/
def parseApproach (b : List Byte) : Option (ApproachIx × ApproachRecord) :=
  match approachOf (byteAt b 0), roleOf (byteAt b 1) with
  | some a, some role =>
    let vMin := clamp 20 300 (halfAt b 5).toNat
    let vMax := clamp 20 300 (halfAt b 7).toNat
    some (a,
      { role := role
        nearSide := (byteAt b 1).getLsbD 7
        enabled := decide (byteAt b 2 ≠ 0)
        eMax := clamp 0 60 (byteAt b 3).toNat * 10
        tMax := clamp 0 60 (byteAt b 4).toNat * 10
        vMin := vMin
        vMax := if vMax < vMin then vMin else vMax
        dwell := clamp 0 60 (byteAt b 9).toNat * 10
        spread := clamp 0 50 (byteAt b 10).toNat })
  | _, _ => none

/-- A point record: the tests of R188, then the clamps of R189. -/
def parsePoint (b : List Byte) : Option (PointIx × PointRecord) :=
  match pointOf (byteAt b 0), approachOf (byteAt b 1), pointKindOf (byteAt b 2) with
  | some p, some a, some kind =>
    some (p,
      { approach := a
        kind := kind
        stopAhead := (byteAt b 2).getLsbD 7
        distance := clamp 10 3000 (halfAt b 3).toNat
        nominal := (byteAt b 5).toNat * 2 })
  | _, _, _ => none

/-- A link record: the tests of R188, then the clamps of R189. -/
def parseLink (b : List Byte) : Option (FlowDirection × LinkRecord) :=
  let direction : Option FlowDirection :=
    if byteAt b 0 = 1 then some .outbound else if byteAt b 0 = 2 then some .inbound else none
  match direction, approachOf (byteAt b 1) with
  | some d, some a =>
    if (byteAt b 2).toNat ≤ 60 ∧ (byteAt b 3).toNat ≤ 60 then
      some (d,
        { approach := a
          upstream := (byteAt b 2).toNat
          downstream := (byteAt b 3).toNat
          linkTime := clamp 10 1200 (halfAt b 4).toNat * 10
          spread := clamp 0 50 (byteAt b 6).toNat })
    else none
  | _, _ => none

/-- The class weights (R189). -/
def parseWeights (b : List Byte) : Vector Nat 4 :=
  #v[clamp 0 7 (byteAt b 0).toNat, clamp 0 7 (byteAt b 1).toNat, clamp 0 7 (byteAt b 2).toNat,
    clamp 0 7 (byteAt b 3).toNat]

/-- Takes a record of a known type into a configuration under its id, replacing one that is there (R188); none if the
record is to be skipped. -/
def takeRecord (type : Byte) (b : List Byte) (c : Configuration) : Option Configuration :=
  if type = 1 then
    match parseApproach b with
    | some (a, r) => some { c with approaches := c.approaches.set a (some r) }
    | none => none
  else if type = 2 then
    match parsePoint b with
    | some (p, r) => some { c with points := c.points.set p (some r) }
    | none => none
  else if type = 3 then
    match parseLink b with
    | some (.outbound, r) => some { c with outbound := some r }
    | some (.inbound, r) => some { c with inbound := some r }
    | none => none
  else some { c with weights := parseWeights b }

end Sys2Proof.Machine
end

