-- ==== Sys2Proof/Machine/Forecast.lean ====
section
/-! DEFINITION. The Forecast Unit (chapter 2): grades, local forecasts and passage forecasts. It holds no state (R30). -/

namespace Sys2Proof.Machine

/-! ### The grade (section 2.7) -/

/-- The late term k (R50). -/
def lateTerm (lateness : Int) : Nat := (clampInt 0 300 lateness).toNat / 30

/-- The grade before damping (R50). -/
def baseGrade (weight : Nat) (lateness : Int) : Nat := min 15 (weight + lateTerm lateness)

/-- Damping by the chain (R51). -/
def damped (limit chain g : Nat) : Nat := if limit ≠ 0 ∧ limit ≤ chain ∧ 1 ≤ g then max 1 (g - 4) else g

/-- The grade of a route class, a lateness and a chain (R48 to R51). -/
def gradeOf (u : Bn24) (routeClass : Fin 4) (lateness : Int) (chain : Nat) : Nat :=
  let l := clampLateness lateness
  if l < -((paramsOf u).ahead : Int) then 0
  else damped (paramsOf u).chainLimit chain (baseGrade u.loader.inForce.weights[routeClass] l)

/-! ### Values of the approach record, with what stands in for an absent record (R31) -/

/-- The dwell allowance w0 (R31). -/
def dwellOf (u : Bn24) (a : ApproachIx) : Nat :=
  match approachRecord u a with
  | some r => r.dwell
  | none => 0

/-- The spread p (R31). -/
def spreadOf (u : Bn24) (a : ApproachIx) : Nat :=
  match approachRecord u a with
  | some r => r.spread
  | none => 0

/-- The near-side stop flag (R31). -/
def nearSideOf (u : Bn24) (a : ApproachIx) : Bool :=
  match approachRecord u a with
  | some r => r.nearSide
  | none => false

/-! ### The local forecast (section 2.2) -/

/-- The speed v (R33). -/
def forecastSpeed (u : Bn24) (p : PointRecord) (measured : Nat) : Nat :=
  let b := speedBounds u p.approach
  clamp b.1 b.2 (if measured = 0 then p.nominal else measured)

/-- The travel time (R34). -/
def travelTime (distance v : Nat) : Nat := ceilDiv (100 * distance) v

/-- The dwell w of a local forecast (R35). -/
def localDwell (u : Bn24) (p : PointRecord) (skipStop : Bool) : Nat :=
  if p.stopAhead && !skipStop then dwellOf u p.approach else 0

/-- The lead L (R36). -/
def localLead (u : Bn24) (p : PointRecord) (measured : Nat) (skipStop : Bool) : Nat :=
  min Config.leadCap (travelTime p.distance (forecastSpeed u p measured) + localDwell u p skipStop)

/-- The spread e of a lead (R37). -/
def localSpread (lead percent : Nat) : Nat := clamp 10 300 (ceilDiv (lead * percent) 100)

/-- The window around an arrival time, no part of it before t (R38, R44). -/
def windowAround (t a : Time) (e : Nat) : Window := { start := laterOf t (a - ds e), stop := a + ds e }

/-- The window of a local forecast (R33 to R38). -/
def localWindow (u : Bn24) (p : PointRecord) (measured : Nat) (skipStop : Bool) : Window :=
  let lead := localLead u p measured skipStop
  windowAround u.localTime (u.localTime + ds lead) (localSpread lead (spreadOf u p.approach))

/-! ### Forecast quality (section 2.5) -/

/-- Time qualities (R45). -/
inductive TimeQuality where
  | none
  | fair
  | good
deriving DecidableEq, Repr

/-- The time quality that a lock state lends (R45). -/
def lockQuality : LockState → TimeQuality
  | .off => .none
  | .acquiring => .none
  | .coarse => .fair
  | .fine => .good
  | .holdover => .fair
  | .free => .good

/-- A peer record is stale (R164). -/
def peerStale (u : Bn24) (p : Peer) : Bool :=
  decide (((paramsOf u).referenceTimeout : Int) < age u.localTime p.last)

/-- The peer record of a station (R161: at most one). -/
def peerOf (u : Bn24) (station : Nat) : Option Peer := u.clock.peers.find? (fun p => decide (p.station = station))

/-- The sender's time quality (R45). -/
def senderQuality (u : Bn24) (f : ReceivedPassage) : TimeQuality :=
  if f.timed then
    match peerOf u f.sender with
    | some p => if peerStale u p then .fair else lockQuality p.lock
    | none => .fair
  else .none

/-- The lower of the two time qualities as a forecast quality; none is untimed (R46). -/
def lowerQuality : TimeQuality → TimeQuality → Option Quality
  | .none, _ => none
  | _, .none => none
  | .good, .good => some .good
  | .good, .fair => some .fair
  | .fair, .good => some .fair
  | .fair, .fair => some .fair

/-- The quality of a passage forecast (R45, R46). -/
def passageQuality (u : Bn24) (f : ReceivedPassage) : Option Quality :=
  lowerQuality (senderQuality u f) (lockQuality u.clock.lock)

/-! ### The passage forecast (section 2.4) -/

/-- The departure in local time (R40). -/
def localDeparture (u : Bn24) (f : ReceivedPassage) : Time := f.departure - u.clock.offset

/-- The forecast is stale (R41). -/
def passageStale (u : Bn24) (f : ReceivedPassage) (l : LinkRecord) : Bool :=
  decide (((l.linkTime + (paramsOf u).staleLimit : Nat) : Int) < max 0 (age u.localTime (localDeparture u f)))

/-- The dwell w of a passage forecast (R42). -/
def passageDwell (u : Bn24) (l : LinkRecord) : Nat := if nearSideOf u l.approach then dwellOf u l.approach else 0

/-- The arrival time, bounded on both sides (R42). -/
def passageArrival (u : Bn24) (f : ReceivedPassage) (l : LinkRecord) : Time :=
  let a := localDeparture u f + ds (l.linkTime + passageDwell u l)
  let t := u.localTime
  if earlier a t then t else if later a (t + ds Config.leadCap) then t + ds Config.leadCap else a

/-- The spread e of a passage forecast (R43). -/
def passageSpread (u : Bn24) (l : LinkRecord) (q : Quality) : Nat :=
  clamp 10 300 (ceilDiv ((l.linkTime + passageDwell u l) * l.spread) 100 + (match q with | .fair => 20 | .good => 0))

/-- The grade of a passage forecast (R39, R48). -/
def passageGrade (u : Bn24) (f : ReceivedPassage) : Nat := gradeOf u f.routeClass f.lateness f.chain

/-- The passage forecast, in the order of R39. -/
def passageForecast (u : Bn24) (f : ReceivedPassage) (l : LinkRecord) : ForecastResult :=
  match passageQuality u f with
  | none => .untimed (passageGrade u f)
  | some q =>
    if passageStale u f l then .stale
    else .timed (windowAround u.localTime (passageArrival u f l) (passageSpread u l q)) q (passageGrade u f)

end Sys2Proof.Machine
end

