-- ==== Sys2Proof/Machine/Evaluator.lean ====
section
/-! DEFINITION. The Service Evaluator (chapter 3): what an evaluation of an entry gives, and the fit test. It holds no state
(R54). -/

namespace Sys2Proof.Machine

/-- The phase view's record of an approach, if present (R98). -/
def phaseOf (u : Bn24) (a : ApproachIx) : Option PhaseRecord := u.controller.phase[a]

/-- The class of a signal state (R61). -/
def classOf : SignalState → SignalClass
  | .green => .green
  | .amber => .notGreen
  | .red => .notGreen
  | .dark => .notGreen

/-- The class of an approach's signal state, for a declined mark (R85); a free value where the phase view is absent
(assumption 24). -/
def signalClassOf (u : Bn24) (a : ApproachIx) : SignalClass :=
  match phaseOf u a with
  | some v => classOf v.state
  | none => if Config.greenWithoutView then .green else .notGreen

/-- A reported time less the age of its record, at least 0; 0 for a negative age (R60). -/
def agedTime (now received : Time) (reported : Nat) : Nat :=
  let a := age now received
  if a < 0 then 0 else reported - a.toNat

/-- The effective to-change of a record (R60). -/
def effectiveToChange (u : Bn24) (v : PhaseRecord) : Nat := agedTime u.localTime v.received v.toChange

/-- The effective to-next-green of a record (R60). -/
def effectiveToNextGreen (u : Bn24) (v : PhaseRecord) : Nat := agedTime u.localTime v.received v.toNextGreen

/-- The green end g (R63). -/
def greenEnd (u : Bn24) (v : PhaseRecord) : Time := u.localTime + ds (effectiveToChange u v)

/-- The next green start n (R64). -/
def nextGreen (u : Bn24) (v : PhaseRecord) : Time := u.localTime + ds (effectiveToNextGreen u v)

/-- Outcomes of an evaluation (R54). -/
inductive Verdict where
  | hold
  | rides
  | wait
  | call (decision : Decision)
deriving DecidableEq, Repr

/-- The declined mark is cleared: the view's class differs from it (R61). -/
def markCleared (u : Bn24) (e : Entry) : Bool :=
  match e.declined, phaseOf u e.approach with
  | some m, some v => decide (classOf v.state ≠ m)
  | _, _ => false

/-- The declined mark holds the entry: the view's class equals it (R61). -/
def markHolds (u : Bn24) (e : Entry) : Bool :=
  match e.declined, phaseOf u e.approach with
  | some m, some v => decide (classOf v.state = m)
  | _, _ => false

/-- The HOLD tests 1, 2, 4, 5, 6, 7, 8, 9 and 10 of R62 against a phase record that is present. -/
def holdTest (u : Bn24) (e : Entry) (v : PhaseRecord) : Bool :=
  decide (e.grade = 0)
    || (match approachRecord u e.approach with | some r => !r.enabled | none => true)
    || decide (v.state = .dark)
    || v.inhibit
    || u.controller.silent
    || !isRunning u
    || (decide (e.confirmation = .forecast) && e.window.isNone)
    || (decide (e.confirmation = .forecast) && decide (e.quality = some .fair))
    || markHolds u e

/-- E_max of an approach (R59). -/
def eMaxOf (u : Bn24) (a : ApproachIx) : Nat :=
  match approachRecord u a with
  | some r => r.eMax
  | none => 0

/-- T_max of an approach (R59). -/
def tMaxOf (u : Bn24) (a : ApproachIx) : Nat :=
  match approachRecord u a with
  | some r => r.tMax
  | none => 0

/-- The needed extension x for a window end later than the green end (R63). -/
def neededExtension (u : Bn24) (stop g : Time) : Nat := roundUpTen ((timeDiff stop g).toNat + (paramsOf u).margin)

/-- The needed advance a for a window start earlier than the next green (R64): how far the start lies before it. -/
def neededAdvance (start n : Time) : Nat := roundUpTen (-timeDiff start n).toNat

/-- The timing outcome in GREEN (R63). -/
def greenVerdict (u : Bn24) (a : ApproachIx) (w : Window) (v : PhaseRecord) : Verdict :=
  let g := greenEnd u v
  if later w.stop g then
    let x := neededExtension u w.stop g
    if x ≤ eMaxOf u a then .call { kind := .extend, amount := x, isPartial := false } else .wait
  else .rides

/-- The timing outcome in AMBER or RED (R64). -/
def redVerdict (u : Bn24) (a : ApproachIx) (w : Window) (v : PhaseRecord) : Verdict :=
  let n := nextGreen u v
  if earlier w.start n then
    let x := neededAdvance w.start n
    if x ≤ tMaxOf u a then .call { kind := .early, amount := x, isPartial := false }
    else if 10 ≤ tMaxOf u a then .call { kind := .early, amount := tMaxOf u a, isPartial := true }
    else .wait
  else .rides

/-- The timing outcome by the signal state (R63, R64); DARK is held before it is reached (R62). -/
def timingVerdict (u : Bn24) (a : ApproachIx) (w : Window) (v : PhaseRecord) : Verdict :=
  match v.state with
  | .green => greenVerdict u a w v
  | .amber => redVerdict u a w v
  | .red => redVerdict u a w v
  | .dark => .hold

/-- The outcome of an evaluation of an entry as it stands (R61 to R64). An entry without a window is held: a FORECAST one by
test 8 of R62, and no CONFIRMED one exists (R3). -/
def verdictOf (u : Bn24) (e : Entry) : Verdict :=
  match phaseOf u e.approach with
  | none => .hold
  | some v =>
    if holdTest u e v then .hold
    else
      match e.window with
      | none => .hold
      | some w => timingVerdict u e.approach w v

/-- The grant fit test (R68). For the holder of an EARLY grant the condition on the service edge is taken as met (R92). -/
def fitsGrant (u : Bn24) (g : Grant) (holder : Bool) (e : Entry) : Bool :=
  match e.window with
  | none => false
  | some w =>
    decide (1 ≤ e.grade) && decide (e.approach = g.approach)
      && (match g.kind with
          | .extend => !later (w.stop + ds (paramsOf u).margin) g.edge
          | .early =>
            (holder || !later g.edge w.start)
              && (match g.greenStart with | some n => earlier w.start n | none => false))

/-- The join test: an ACTIVE grant with fewer than 4 members that the entry fits (R69, R90). -/
def joinable (u : Bn24) (e : Entry) : Bool :=
  match u.arbiter.slot with
  | .active g => decide (g.members.length < Config.memberCapacity) && fitsGrant u g false e
  | .free => false
  | .offered _ => false

/-- The entry as an evaluation leaves it (R61, R67). -/
def writtenEntry (u : Bn24) (e : Entry) : Entry :=
  let e1 := if markCleared u e then { e with declined := none } else e
  match verdictOf u e1 with
  | .call d => { e1 with service := .armed, decision := some d }
  | .hold => toWaiting e1
  | .rides => toWaiting e1
  | .wait => toWaiting e1

/-- The outcome of an evaluation, the declined-mark test included (R61). -/
def evaluationVerdict (u : Bn24) (e : Entry) : Verdict :=
  verdictOf u (if markCleared u e then { e with declined := none } else e)

end Sys2Proof.Machine
end

