-- ==== Sys2Proof/Machine/Arbiter.lean ====
section
/-! DEFINITION. The Grant Arbiter (chapter 4): selection and offers, replies, the active grant, and the meanings of
JOIN_REQUEST, REPLY_WAIT_EXPIRY and GRANT_DEADLINE. -/

namespace Sys2Proof.Machine

/-- Sets the grant slot. -/
def setGrant (g : GrantSlot) (u : Bn24) : Bn24 := { u with arbiter := { u.arbiter with slot := g } }

/-- Applies a change to the entry that a request names by slot and key; dropped if it is gone (R4). -/
def modifyEntry (r : EntryRef) (f : Entry → Entry) (u : Bn24) : Bn24 :=
  match entryAt u r with
  | some e => setSlot r.slot (some (f e)) u
  | none => u

/-! ### Selection and the offer (section 4.2) -/

/-- An ARMED entry with its slot and its decision. -/
structure Candidate where
  slot     : SlotIx
  entry    : Entry
  decision : Decision
deriving DecidableEq, Repr

/-- The ARMED entries, in ascending slot order (R78). -/
def candidates (u : Bn24) : List Candidate :=
  (List.finRange 24).filterMap fun i =>
    match entryIn u i with
    | some e =>
      match e.service, e.decision with
      | .armed, some d => some { slot := i, entry := e, decision := d }
      | _, _ => none
    | none => none

/-- The first window starts earlier than the second (R78). -/
def startsEarlier (a b : Option Window) : Bool :=
  match a, b with
  | some v, some w => earlier v.start w.start
  | _, _ => false

/-- A candidate goes before one of a lower slot: a higher grade, or the same grade and an earlier window start (R78). -/
def goesBefore (a b : Candidate) : Bool :=
  decide (b.entry.grade < a.entry.grade)
    || (decide (a.entry.grade = b.entry.grade) && startsEarlier a.entry.window b.entry.window)

/-- The better of the choice so far and the next candidate; a tie stays with the lower slot (R78). -/
def chooseNext (best : Option Candidate) (c : Candidate) : Option Candidate :=
  match best with
  | none => some c
  | some b => if goesBefore c b then some c else some b

/-- The choice of a selection (R78). -/
def selected (u : Bn24) : Option Candidate := (candidates u).foldl chooseNext none

/-- The request id after one (R77): 255 is followed by 1. -/
def nextRequestId (id : Byte) : Byte := if id = 255 then 1 else id + 1

/-- Issues the call of a selected entry, its decision unchanged (R65, R79). DESIGN CHOICE (assumption 27): so too where an update
has moved the entry to another approach since the decision, whose limit the amount may exceed. -/
def issueOffer (c : Candidate) (u : Bn24) : Bn24 :=
  let id := u.arbiter.nextId
  let offer : Offer :=
    { id := id, kind := c.decision.kind, amount := c.decision.amount, isPartial := c.decision.isPartial,
      approach := c.entry.approach, entry := some { slot := c.slot, key := c.entry.key },
      replyEnd := u.localTime + ds Config.replyWait }
  let u1 := { u with arbiter := { u.arbiter with slot := .offered offer, nextId := nextRequestId id } }
  let u2 := setSlot c.slot (some { c.entry with service := .offered }) u1
  count .callsOffered (handLink (.call id c.entry.approach c.decision.kind c.decision.amount) u2)

/-- A selection, made while the slot is FREE, the run state RUNNING and the controller not silent (R78). -/
def selection (u : Bn24) : Bn24 :=
  if u.arbiter.slot = .free ∧ isRunning u = true ∧ u.controller.silent = false then
    match selected u with
    | some c => issueOffer c u
    | none => u
  else u

/-! ### The end of a grant, and members that leave (section 4.4) -/

/-- Returns an entry to WAITING with its decision removed (R3, R94). -/
def returnToWaiting (r : EntryRef) (u : Bn24) : Bn24 := modifyEntry r toWaiting u

/-- Returns every member to WAITING, in the order of the list (R94, R100). -/
def returnMembers (members : List EntryRef) (u : Bn24) : Bn24 := members.foldl (fun u r => returnToWaiting r u) u

/-- The grant ends: the slot becomes FREE, and the join requests that it has not taken are dropped (R69, R71). -/
def freeGrant (u : Bn24) : Bn24 := { u with arbiter := { u.arbiter with slot := .free, joins := [] } }

/-- After the end of a grant the evaluations of R57 are requested, and a selection follows (R93, R94). -/
def grantEnded (g : Grant) (u : Bn24) : Bn24 := selection (evaluateApproach g.approach (freeGrant u))

/-- A grant ends by its last member leaving: CLEAR first (R93). -/
def endGrant (g : Grant) (u : Bn24) : Bn24 := grantEnded g (handLink (.clear g.id) u)

/-- A rider becomes holder with the grant's decision (R89, R91). -/
def promote (g : Grant) (e : Entry) : Entry :=
  { e with service := .granted, decision := some { kind := g.kind, amount := g.amount, isPartial := g.isPartial } }

/-- A member leaves the members list, with succession of the holder or the end of the grant (R91, R93). -/
def memberLeaves (r : EntryRef) (u : Bn24) : Bn24 :=
  match u.arbiter.slot with
  | .active g =>
    match g.members.filter (fun m => decide (m ≠ r)) with
    | [] => endGrant g u
    | m :: rest =>
      let u1 := setGrant (.active { g with members := m :: rest }) u
      if g.members.head? = some r then modifyEntry m (promote g) u1 else u1
  | .free => u
  | .offered _ => u

/-- The offer loses its entry and stays OFFERED with the abandoned flag set (R80). -/
def abandonOffer (u : Bn24) : Bn24 :=
  match u.arbiter.slot with
  | .offered o => setGrant (.offered { o with entry := none }) u
  | .free => u
  | .active _ => u

/-- The Approach Table tells the arbiter that an entry is about to be removed, by the entry's service state (R25). -/
def notifyRemoval (i : SlotIx) (e : Entry) (u : Bn24) : Bn24 :=
  match e.service with
  | .offered => abandonOffer u
  | .granted => memberLeaves { slot := i, key := e.key } u
  | .riding => memberLeaves { slot := i, key := e.key } u
  | .waiting => u
  | .armed => u

/-- Whether a slot's entry is the holder of the active grant (R89). -/
def isHolder (g : Grant) (i : SlotIx) : Bool :=
  match g.members.head? with
  | some m => decide (m.slot = i)
  | none => false

/-- An updated member still fits its grant (R92). -/
def memberFits (u : Bn24) (i : SlotIx) (e : Entry) : Bool :=
  match u.arbiter.slot with
  | .active g => fitsGrant u g (isHolder g i) e
  | .free => false
  | .offered _ => false

/-- The updated entry of an offer still has the offered call: its outcome has the offer's kind and amount (R81). -/
def callStands (u : Bn24) (e : Entry) : Bool :=
  match u.arbiter.slot with
  | .offered o =>
    match verdictOf u e with
    | .call d => decide (d.kind = o.kind) && decide (d.amount = o.amount)
    | .hold => false
    | .rides => false
    | .wait => false
  | .free => false
  | .active _ => false

/-! ### Replies (section 4.3) -/

/-- The reference time of an EXTEND grant: the green end in GREEN, the present otherwise (R83). R83 says that the view is
present; where an update has moved the ARMED entry to an approach without one, the time is a free value (assumption 24). -/
def extendReference (u : Bn24) (a : ApproachIx) : Time :=
  match phaseOf u a with
  | some v => match v.state with
    | .green => greenEnd u v
    | .amber => u.localTime
    | .red => u.localTime
    | .dark => u.localTime
  | none => Config.extendReferenceWithoutView u.localTime

/-- The reference time of an EARLY grant: the next green start in AMBER or RED, the present otherwise (R83); a free value
where the view is absent (assumption 24). -/
def earlyReference (u : Bn24) (a : ApproachIx) : Time :=
  match phaseOf u a with
  | some v => match v.state with
    | .green => u.localTime
    | .amber => nextGreen u v
    | .red => nextGreen u v
    | .dark => u.localTime
  | none => Config.earlyReferenceWithoutView u.localTime

/-- The service edge fixed at acceptance (R83). -/
def serviceEdge (u : Bn24) (o : Offer) : Time :=
  match o.kind with
  | .extend => extendReference u o.approach + ds o.amount
  | .early => earlyReference u o.approach - ds o.amount

/-- The recorded green start of an EARLY grant (R83). -/
def recordedGreen (u : Bn24) (o : Offer) : Option Time :=
  match o.kind with
  | .extend => none
  | .early => some (earlyReference u o.approach)

/-- The deadline from the holder's window end (R83). An entry without a window, which is never OFFERED (R3, R78), counts as
ending now (assumption 13). -/
def grantDeadlineOf (u : Bn24) (e : Entry) : Time :=
  let stop := match e.window with | some w => w.stop | none => u.localTime
  stop + ds ((paramsOf u).margin + (paramsOf u).grace)

/-- The grant that an ACCEPT begins (R82, R83). -/
def acceptedGrant (u : Bn24) (o : Offer) (r : EntryRef) (e : Entry) : Grant :=
  { id := o.id, kind := o.kind, amount := o.amount, isPartial := o.isPartial, approach := o.approach, members := [r],
    edge := serviceEdge u o, greenStart := recordedGreen u o, deadline := grantDeadlineOf u e }

/-- The ACCEPT of an abandoned offer: CLEAR, FREE, selection (R84). -/
def acceptAbandoned (o : Offer) (u : Bn24) : Bn24 :=
  selection (setGrant .free (handLink (.clear o.id) (count .callsAccepted u)))

/-- The ACCEPT of the current id (R82, R84). -/
def acceptOffer (o : Offer) (u : Bn24) : Bn24 :=
  match o.entry with
  | none => acceptAbandoned o u
  | some r =>
    match entryAt u r with
    | none => acceptAbandoned o u
    | some e =>
      count .callsAccepted
        (setSlot r.slot (some { e with service := .granted, served := true })
          (setGrant (.active (acceptedGrant u o r e)) u))

/-- A late ACCEPT is withdrawn by a CLEAR of its own id (R87). -/
def lateAccept (id : Byte) (u : Bn24) : Bn24 := count .lateAccepts (handLink (.clear id) u)

/-- An ACCEPT by the slot state (R82, R84, R87). -/
def takeAccept (id : Byte) (u : Bn24) : Bn24 :=
  match u.arbiter.slot with
  | .free => lateAccept id u
  | .offered o => if o.id = id then acceptOffer o u else lateAccept id u
  | .active g => if g.id = id then u else lateAccept id u

/-- The offered entry back in WAITING with a declined mark of the present class (R85). -/
def markDeclined (u : Bn24) (e : Entry) : Entry :=
  { toWaiting e with declined := some (signalClassOf u e.approach) }

/-- The offer ends unaccepted: the entry, if not abandoned, is marked; the slot becomes FREE; a selection follows (R85,
R86). -/
def offerEnded (o : Offer) (u : Bn24) : Bn24 :=
  match o.entry with
  | none => selection (setGrant .free u)
  | some r => selection (setGrant .free (modifyEntry r (markDeclined u) u))

/-- A DECLINE by the slot state (R85, R87). CALLS_DECLINED counts only an offer that is not abandoned. -/
def takeDecline (id : Byte) (u : Bn24) : Bn24 :=
  match u.arbiter.slot with
  | .free => u
  | .offered o =>
    if o.id = id then offerEnded o (if o.entry.isSome then count .callsDeclined u else u) else u
  | .active _ => u

/-! ### The arbiter's meanings -/

/-- The reply wait has reached its end (R86). -/
def replyWaitDue (u : Bn24) : Bool :=
  match u.arbiter.slot with
  | .offered o => !earlier u.localTime o.replyEnd
  | .free => false
  | .active _ => false

/-- REPLY_WAIT_EXPIRY (R86): handled as a DECLINE, with REPLY_TIMEOUTS counted, abandoned or not (worked example 4.5). -/
def execReplyWaitExpiry (s : State) : Host.Outcome State Fault Refusal :=
  unlessReset (fun u =>
    match u.arbiter.slot with
    | .offered o => if replyWaitDue u then offerEnded o (count .replyTimeouts u) else u
    | .free => u
    | .active _ => u) s

/-- The grant deadline has passed (R94). -/
def deadlinePassed (u : Bn24) : Bool :=
  match u.arbiter.slot with
  | .active g => later u.localTime g.deadline
  | .free => false
  | .offered _ => false

/-- The handling of a passed deadline, in the order of R94. -/
def overrun (g : Grant) (u : Bn24) : Bn24 :=
  grantEnded g (flag .grantOverrun (count .grantOverruns (returnMembers g.members (handLink (.clear g.id) u))))

/-- GRANT_DEADLINE (R94). -/
def execGrantDeadline (s : State) : Host.Outcome State Fault Refusal :=
  unlessReset (fun u =>
    match u.arbiter.slot with
    | .active g => if deadlinePassed u then overrun g u else u
    | .free => u
    | .offered _ => u) s

/-- A rider on its admission (R69, R90). -/
def ridingEntry (e : Entry) : Entry := { e with service := .riding, decision := none, served := true }

/-- A join request taken by the arbiter: the tests are those of the slot as it then stands (R90). The grant of its evaluation has
not ended, for its end drops the request (R69, R71). -/
def admitRider (r : EntryRef) (u : Bn24) : Bn24 :=
  match u.arbiter.slot, entryAt u r with
  | .active g, some e =>
    if evaluable e && joinable u e then
      setSlot r.slot (some (ridingEntry e)) (setGrant (.active { g with members := g.members ++ [r] }) u)
    else u
  | _, _ => u

/-- JOIN_REQUEST (R90): the arbiter takes the join request at the front of those that wait. -/
def execJoinRequest (s : State) : Host.Outcome State Fault Refusal :=
  unlessReset (fun u =>
    match u.arbiter.joins with
    | [] => u
    | r :: rest => admitRider r { u with arbiter := { u.arbiter with joins := rest } }) s

end Sys2Proof.Machine
end

