-- ==== Sys2Proof/Machine/Table.lean ====
section
/-! DEFINITION. The Approach Table (chapter 1): allocation, detection messages, corridor forecasts and invalidations,
evaluations, removal and expiry. -/

namespace Sys2Proof.Machine

/-! ### Requests waiting for the table -/

/-- The table has taken the request at the front (R6). -/
def popRequest (u : Bn24) : Bn24 := { u with table := { u.table with requests := u.table.requests.tail } }

/-- The table requests an evaluation of the entry in a slot (R55). -/
def requestEvaluation (i : SlotIx) (k : Key) (u : Bn24) : Bn24 := sendTable [.evaluation { slot := i, key := k }] u

/-! ### Recent departures (section 1.3) -/

/-- A record has lapsed (R13). -/
def lapsed (now : Time) (d : Departure) : Bool := decide ((Config.recentLapseAge : Int) ≤ age now d.time)

/-- The lapsed records have left the list (R13). -/
def purgeRecent (u : Bn24) : Bn24 :=
  { u with table := { u.table with recent := u.table.recent.filter (fun d => !lapsed u.localTime d) } }

/-- The key is in the recent-departures list (R13: "live" once the lapsed records have left). -/
def inRecent (u : Bn24) (k : Key) : Bool := u.table.recent.any (fun d => decide (d.key = k))

/-- The list after a key is added at a local time: refreshed to newest, appended, or over the oldest record (R12). -/
def withDeparture (k : Key) (now : Time) (recent : List Departure) : List Departure :=
  let others := recent.filter (fun d => decide (d.key ≠ k))
  others.drop (others.length - (Config.recentCapacity - 1)) ++ [{ key := k, time := now }]

/-- A key is added to the recent-departures list at the present local time (R12). -/
def addDeparture (k : Key) (u : Bn24) : Bn24 :=
  { u with table := { u.table with recent := withDeparture k u.localTime u.table.recent } }

/-! ### Allocation and eviction (section 1.2) -/

/-- The slots in the order of the forecast victim scan (R8). -/
def scanOrder (start : SlotIx) : List SlotIx := (List.finRange 24).map (fun k => start + k)

/-- A slot holds a FORECAST entry in WAITING (R8). -/
def isForecastVictim (u : Bn24) (i : SlotIx) : Bool :=
  match entryIn u i with
  | some e => decide (e.confirmation = .forecast) && decide (e.service = .waiting)
  | none => false

/-- The forecast victim scan (R8). -/
def forecastVictim (u : Bn24) : Option SlotIx := (scanOrder u.table.evict).find? (isForecastVictim u)

/-- The better choice of R10's step 2: a strictly lower grade, or the lower slot of equal grades. -/
def lowerGrade (best : Option (SlotIx × Nat)) (c : SlotIx × Nat) : Option (SlotIx × Nat) :=
  match best with
  | none => some c
  | some b => if c.2 < b.2 then some c else some b

/-- The CONFIRMED entries in WAITING with their grades, in ascending slot order (R10). -/
def confirmedWaiting (u : Bn24) : List (SlotIx × Nat) :=
  (List.finRange 24).filterMap fun i =>
    match entryIn u i with
    | some e => if e.confirmation = .confirmed ∧ e.service = .waiting then some (i, e.grade) else none
    | none => none

/-- The CONFIRMED WAITING entry of lowest grade, lowest slot first (R10). -/
def lowestConfirmed (u : Bn24) : Option (SlotIx × Nat) := (confirmedWaiting u).foldl lowerGrade none

/-- A victim leaves its slot silently (R11). -/
def evictSlot (i : SlotIx) (u : Bn24) : Bn24 := count .tableEvicted (setSlot i none u)

/-- The eviction pointer moves past a victim, 23 followed by 0 (R8). -/
def movePointer (victim : SlotIx) (u : Bn24) : Bn24 := { u with table := { u.table with evict := victim + 1 } }

/-- A new entry takes a slot and its evaluation is requested (R7, R55). -/
def placeEntry (i : SlotIx) (e : Entry) (u : Bn24) : Bn24 := requestEvaluation i e.key (setSlot i (some e) u)

/-- A new FORECAST entry is wanted (R7, R9). -/
def allocateForecast (e : Entry) (u : Bn24) : Bn24 :=
  match lowestEmpty u with
  | some i => placeEntry i e u
  | none =>
    match forecastVictim u with
    | some v => placeEntry v e (movePointer v (evictSlot v u))
    | none => count .forecastDiscarded u

/-- A new CONFIRMED entry is wanted (R7, R10). -/
def allocateConfirmed (e : Entry) (u : Bn24) : Bn24 :=
  match lowestEmpty u with
  | some i => placeEntry i e u
  | none =>
    match forecastVictim u with
    | some v => placeEntry v e (movePointer v (evictSlot v u))
    | none =>
      match lowestConfirmed u with
      | some (j, g) =>
        if g < e.grade then placeEntry j e (evictSlot j u) else flag .tableFull (count .tableRefused u)
      | none => flag .tableFull (count .tableRefused u)

/-! ### Updates of an entry (R16, R17, R23) -/

/-- The declined mark after an update: cleared if the approach changed (R16, R23). -/
def updatedMark (old : Entry) (a : ApproachIx) : Option SignalClass := if old.approach = a then old.declined else none

/-- Writes the new forecast fields of an entry, the arbiter acting first where R17 and R23 say so. `new` is the entry with
its forecast fields rewritten and its other fields kept; `stands` says that an offer of it stands (R81). -/
def rewriteEntry (i : SlotIx) (old new : Entry) (stands : Bool) (u : Bn24) : Bn24 :=
  match old.service with
  | .waiting => requestEvaluation i new.key (setSlot i (some new) u)
  | .armed =>
    let e := if new.grade = 0 ∨ new.window = none then toWaiting new else new
    requestEvaluation i new.key (setSlot i (some e) u)
  | .offered =>
    if stands then setSlot i (some new) u
    else requestEvaluation i new.key (setSlot i (some (toWaiting new)) (abandonOffer u))
  | .granted | .riding =>
    if new.approach ≠ old.approach then
      let left := memberLeaves { slot := i, key := old.key } (setSlot i (some (toWaiting old)) u)
      requestEvaluation i new.key (setSlot i (some (toWaiting new)) left)
    else if memberFits u i new then setSlot i (some new) u
    else
      requestEvaluation i new.key
        (memberLeaves { slot := i, key := old.key } (setSlot i (some (toWaiting new)) u))

/-! ### Removal (section 1.6) -/

/-- An entry is removed, the arbiter acting first (R25). -/
def removeEntry (i : SlotIx) (e : Entry) (u : Bn24) : Bn24 := setSlot i none (notifyRemoval i e u)

/-! ### Detection messages (section 1.4) -/

/-- The new CONFIRMED entry of a CHECK-IN (R7, R15). -/
def newConfirmed (u : Bn24) (p : PointRecord) (k : Key) (routeClass : Fin 4) (lateness : Int) (speed : Nat)
    (skipStop : Bool) : Entry :=
  { key := k, confirmation := .confirmed, approach := p.approach, chain := 0
    grade := gradeOf u routeClass lateness 0
    window := some (localWindow u p speed skipStop), quality := none, updated := u.localTime
    service := .waiting, decision := none, declined := none, served := false }

/-- An entry as a CHECK-IN rewrites it (R16). -/
def checkedIn (u : Bn24) (old : Entry) (p : PointRecord) (routeClass : Fin 4) (lateness : Int) (speed : Nat)
    (skipStop : Bool) : Entry :=
  { old with
    confirmation := .confirmed, approach := p.approach
    grade := gradeOf u routeClass lateness old.chain
    window := some (localWindow u p speed skipStop), quality := none
    declined := updatedMark old p.approach, updated := u.localTime }

/-- A CHECK-IN handled by the table (R14 to R17). A point without a record, which the inbox never names (R114),
changes nothing (assumption 13). -/
def handleCheckIn (point : PointIx) (k : Key) (routeClass : Fin 4) (lateness : Int) (speed : Nat) (skipStop : Bool)
    (u : Bn24) : Bn24 :=
  if inRecent u k then count .detDuplicate u
  else
    match pointRecord u point with
    | none => u
    | some p =>
      match findKey u k with
      | none => allocateConfirmed (newConfirmed u p k routeClass lateness speed skipStop) u
      | some i =>
        match entryIn u i with
        | none => u
        | some old => rewriteEntry i old (checkedIn u old p routeClass lateness speed skipStop) false u

/-- The busway direction of an approach's role (R20, R144). -/
def directionOf (u : Bn24) (a : ApproachIx) : Option FlowDirection :=
  match approachRecord u a with
  | some r => match r.role with
    | .cross => none
    | .outbound => some .outbound
    | .inbound => some .inbound
  | none => none

/-- A PASSAGE is requested for a check-out on this approach: its direction and its downstream station (R20). -/
def passageTarget (u : Bn24) (a : ApproachIx) : Option (FlowDirection × Nat) :=
  match directionOf u a with
  | none => none
  | some d =>
    match linkRecord u d with
    | none => none
    | some l => if l.downstream = 0 then none else some (d, l.downstream)

/-- Requests a PASSAGE where R20 allows it. -/
def requestPassage (r : PassageRequest) (u : Bn24) : Bn24 :=
  match passageTarget u r.approach with
  | some _ => sendHandler (.passage r) u
  | none => u

/-- The chain sent with a matched check-out (R18). -/
def sentChain (e : Entry) : Nat := if e.served then min 15 (e.chain + 1) else 0

/-- A CHECK-OUT handled by the table (R14, R18 to R20). -/
def handleCheckOut (point : PointIx) (k : Key) (routeClass : Fin 4) (lateness : Int) (u : Bn24) : Bn24 :=
  if inRecent u k then count .detDuplicate u
  else
    match pointRecord u point with
    | none => u
    | some p =>
      match findKey u k with
      | none =>
        requestPassage
          { key := k, routeClass := routeClass, lateness := lateness, chain := 0,
            grade := gradeOf u routeClass lateness 0, approach := p.approach, checkOut := u.localTime }
          (addDeparture k (count .checkoutUnmatched u))
      | some i =>
        match entryIn u i with
        | none => u
        | some e =>
          requestPassage
            { key := k, routeClass := routeClass, lateness := lateness, chain := sentChain e,
              grade := e.grade, approach := p.approach, checkOut := u.localTime }
            (addDeparture k (removeEntry i e u))

/-- A CANCEL handled by the table (R21). -/
def handleCancel (k : Key) (u : Bn24) : Bn24 :=
  let removed :=
    match findKey u k with
    | none => u
    | some i =>
      match entryIn u i with
      | none => u
      | some e => removeEntry i e u
  sendHandler (.withdraw k) (addDeparture k removed)

/-- The message at the front of the inbox leaves it, and its turn leaves the waiting requests (R115). -/
def takeInbox (u : Bn24) : Bn24 := popRequest { u with detection := { u.detection with inbox := u.detection.inbox.tail } }

/-- The detection message whose turn it is, while the run state is RUNNING (R6, R115). -/
def turnOfInbox (u : Bn24) : Option DetectionMessage :=
  if isRunning u then
    match u.table.requests with
    | .detection :: _ => u.detection.inbox.head?
    | _ => none
  else none

/-- CHECK_IN (R15). -/
def execCheckIn (s : State) : Host.Outcome State Fault Refusal :=
  unlessReset (fun u =>
    match turnOfInbox u with
    | some (.checkIn p k c l v skip) => handleCheckIn p k c l v skip (purgeRecent (takeInbox u))
    | _ => u) s

/-- CHECK_OUT (R18, R19). -/
def execCheckOut (s : State) : Host.Outcome State Fault Refusal :=
  unlessReset (fun u =>
    match turnOfInbox u with
    | some (.checkOut p k c l) => handleCheckOut p k c l (purgeRecent (takeInbox u))
    | _ => u) s

/-- CANCEL (R21). -/
def execCancel (s : State) : Host.Outcome State Fault Refusal :=
  unlessReset (fun u =>
    match turnOfInbox u with
    | some (.cancel k) => handleCancel k (purgeRecent (takeInbox u))
    | _ => u) s

/-! ### Corridor forecasts and invalidations (section 1.5) -/

/-- The new FORECAST entry of a forecast request (R7). -/
def newForecast (u : Bn24) (r : ForecastRequest) (w : Option Window) (q : Option Quality) (g : Nat) : Entry :=
  { key := r.key, confirmation := .forecast, approach := r.approach, chain := r.chain, grade := g, window := w,
    quality := q, updated := u.localTime, service := .waiting, decision := none, declined := none, served := false }

/-- An entry as a forecast request rewrites it (R23). -/
def reforecast (u : Bn24) (old : Entry) (r : ForecastRequest) (w : Option Window) (q : Option Quality) (g : Nat) : Entry :=
  { old with
    chain := r.chain, approach := r.approach, window := w, quality := q, grade := g
    declined := updatedMark old r.approach, updated := u.localTime }

/-- A forecast request updates a FORECAST entry (R23), its offer standing by R81 on the same approach only (R80). -/
def updateForecast (i : SlotIx) (old new : Entry) (u : Bn24) : Bn24 :=
  rewriteEntry i old new (decide (new.approach = old.approach) && callStands u new) u

/-- A forecast request that is not stale, by the standing of its key (R22). -/
def applyForecast (r : ForecastRequest) (w : Option Window) (q : Option Quality) (g : Nat) (u : Bn24) : Bn24 :=
  match findKey u r.key with
  | none => allocateForecast (newForecast u r w q g) u
  | some i =>
    match entryIn u i with
    | none => u
    | some old =>
      match old.confirmation with
      | .confirmed => u
      | .forecast => updateForecast i old (reforecast u old r w q g) u

/-- A CONFIRMED entry holds the key (R22, R24). -/
def heldConfirmed (u : Bn24) (k : Key) : Bool :=
  match findKey u k with
  | none => false
  | some i => match entryIn u i with
    | none => false
    | some e => decide (e.confirmation = .confirmed)

/-- A forecast request, by the first case of R22 that holds. -/
def handleForecast (r : ForecastRequest) (u : Bn24) : Bn24 :=
  if inRecent u r.key then count .forecastDiscarded u
  else if heldConfirmed u r.key then u
  else
    match r.result with
    | .stale => count .forecastDiscarded u
    | .untimed g => applyForecast r none none g u
    | .timed w q g => applyForecast r (some w) (some q) g u

/-- FORECAST_REQUEST (R22). -/
def execForecastRequest (s : State) : Host.Outcome State Fault Refusal :=
  unlessReset (fun u =>
    match u.table.requests with
    | .forecast r :: _ => handleForecast r (purgeRecent (popRequest u))
    | _ => u) s

/-- An invalidation request (R24). -/
def handleInvalidation (k : Key) (u : Bn24) : Bn24 :=
  match findKey u k with
  | none => u
  | some i =>
    match entryIn u i with
    | none => u
    | some e =>
      match e.confirmation with
      | .confirmed => u
      | .forecast => removeEntry i e (count .forecastInvalidated u)

/-- INVALIDATION_REQUEST (R24). -/
def execInvalidationRequest (s : State) : Host.Outcome State Fault Refusal :=
  unlessReset (fun u =>
    match u.table.requests with
    | .invalidation k :: _ => handleInvalidation k (popRequest u)
    | _ => u) s

/-! ### Evaluations and the silence request -/

/-- The write of an evaluation (R67); an entry that goes from WAITING to ARMED is told to the arbiter (R78). -/
def writeEvaluation (r : EntryRef) (e : Entry) (u : Bn24) : Bn24 :=
  let new := writtenEntry u e
  let u1 := setSlot r.slot (some new) u
  if e.service = .waiting ∧ new.service = .armed then selection u1 else u1

/-- The join test and its request (R69). -/
def proposeJoin (r : EntryRef) (v : Verdict) (new : Entry) (u : Bn24) : Bn24 :=
  if v ≠ .hold ∧ joinable u new = true then
    { u with arbiter := { u.arbiter with joins := u.arbiter.joins ++ [r] } }
  else u

/-- An evaluation applied by the table (R54, R61 to R69). -/
def applyEvaluation (r : EntryRef) (u : Bn24) : Bn24 :=
  match entryAt u r with
  | none => u
  | some e =>
    if evaluable e then proposeJoin r (evaluationVerdict u e) (writtenEntry u e) (writeEvaluation r e u) else u

/-- EVALUATION (R54). -/
def execEvaluation (s : State) : Host.Outcome State Fault Refusal :=
  unlessReset (fun u =>
    match u.table.requests with
    | .evaluation r :: _ => applyEvaluation r (popRequest u)
    | _ => u) s

/-- Every ARMED entry back in WAITING with its decision removed (R100). -/
def disarm (e : Option Entry) : Option Entry :=
  match e with
  | some e => some (if e.service = .armed then toWaiting e else e)
  | none => none

/-- A change of every slot. -/
def mapSlots (f : Option Entry → Option Entry) (v : Vector (Option Entry) 24) : Vector (Option Entry) 24 :=
  ⟨⟨v.toList.map f⟩, by simp⟩

/-- The silence request, one request for all entries (R4, R100). -/
def disarmAll (u : Bn24) : Bn24 := { u with table := { u.table with slots := mapSlots disarm u.table.slots } }

/-- SILENCE_REQUEST (R100). -/
def execSilenceRequest (s : State) : Host.Outcome State Fault Refusal :=
  unlessReset (fun u =>
    match u.table.requests with
    | .silence :: _ => disarmAll (popRequest u)
    | _ => u) s

/-! ### The table's timers -/

/-- The window of an entry has expired (R26). -/
def windowExpired (u : Bn24) (e : Entry) : Bool :=
  match e.window with
  | some w => later u.localTime (w.stop + ds (paramsOf u).staleLimit)
  | none => false

/-- The counter of an expiry (R26). -/
def expiryCounter (e : Entry) : Counter :=
  match e.confirmation with
  | .confirmed => .busMissed
  | .forecast => .forecastUnconfirmed

/-- ENTRY_EXPIRY (R26). -/
def execEntryExpiry (slot : SlotIx) (s : State) : Host.Outcome State Fault Refusal :=
  unlessReset (fun u =>
    match entryIn u slot with
    | some e => if windowExpired u e then removeEntry slot e (count (expiryCounter e) u) else u
    | none => u) s

/-- A FORECAST entry without a window has outlived the untimed life (R27). -/
def untimedExpired (u : Bn24) (e : Entry) : Bool :=
  decide (e.confirmation = .forecast) && e.window.isNone
    && decide (((paramsOf u).untimedLife : Int) < age u.localTime e.updated)

/-- UNTIMED_EXPIRY (R27). -/
def execUntimedExpiry (slot : SlotIx) (s : State) : Host.Outcome State Fault Refusal :=
  unlessReset (fun u =>
    match entryIn u slot with
    | some e => if untimedExpired u e then removeEntry slot e (count .forecastUnconfirmed u) else u
    | none => u) s

/-- RECENT_DEPARTURE_LAPSE (R13). -/
def execRecentDepartureLapse (s : State) : Host.Outcome State Fault Refusal := unlessReset purgeRecent s

end Sys2Proof.Machine
end

