-- ==== Sys2Proof/Machine/Controller.lean ====
section
/-! DEFINITION. The Controller Port (sections 4.7, 4.8): its receiver, the phase view, the silence timer and the transmitter. -/

namespace Sys2Proof.Machine

/-- Sets the receiver's framing state (R96). -/
def setLinkFraming (f : Framing) (u : Bn24) : Bn24 := { u with controller := { u.controller with framing := f } }

/-- Restarts the silence timer (R100). -/
def restartSilence (u : Bn24) : Bn24 :=
  { u with controller := { u.controller with silenceStart := some u.localTime } }

/-- The end of a silence, with the evaluations of every WAITING or ARMED entry (R101, R58). -/
def endSilence (u : Bn24) : Bn24 :=
  let u1 := { u with controller := { u.controller with silent := false } }
  sendTable (evaluationsOf (fun _ => true) u1) u1

/-- A valid controller message restarts the silence timer and ends a silence (R97, R101). -/
def heardController (u : Bn24) : Bn24 :=
  let u1 := restartSilence u
  if u.controller.silent then endSilence u1 else u1

/-- The phase view's record of an approach is replaced whole (R98). -/
def setPhase (a : ApproachIx) (v : PhaseRecord) (u : Bn24) : Bn24 :=
  { u with controller := { u.controller with phase := u.controller.phase.set a (some v) } }

/-- A PHASE STATUS replaces its record and requests the evaluations of R56 (R98). -/
def takePhaseStatus (a : ApproachIx) (v : PhaseRecord) (u : Bn24) : Bn24 := evaluateApproach a (setPhase a v u)

/-- The delivery of a valid controller message (R97). -/
def deliverController (m : ControllerMessage) (u : Bn24) : Bn24 :=
  match m with
  | .phaseStatus a st tc tn inhibit =>
    takePhaseStatus a
      { state := st, toChange := tc, toNextGreen := tn, inhibit := inhibit, received := u.localTime } u
  | .accept id => takeAccept id u
  | .decline id => takeDecline id u

/-- A controller message received whole (R97): checked, and delivered if it is valid. -/
def receiveController (payload : List Byte) (check : Byte) (u : Bn24) : Bn24 :=
  let u1 := setLinkFraming .hunting u
  match parseController payload check with
  | none => count .linkBad u1
  | some m => deliverController m (heardController u1)

/-- A message dropped or abandoned on the controller link (R96). -/
def dropLink (u : Bn24) : Bn24 := count .linkBad (setLinkFraming .hunting u)

/-- A gap before the next byte abandons the message, and that byte is the first of the hunt (R96, R106). -/
def afterLinkGap (u : Bn24) : Bn24 := if gapPassed u.localTime u.controller.framing then dropLink u else u

/-- A byte taken by the framing state (R96). -/
def frameLinkByte (b : Byte) (u : Bn24) : Bn24 :=
  match nextByte u.localTime b u.controller.framing with
  | .goesOn f => setLinkFraming f u
  | .dropped => dropLink u
  | .whole payload check => receiveController payload check u

/-- A byte completed on the controller link (R96). -/
def linkByte (b : Byte) (u : Bn24) : Bn24 := frameLinkByte b (afterLinkGap u)

/-- Bytes completed on the controller link, one after the other. -/
def linkBytes (bytes : List Byte) (u : Bn24) : Bn24 := bytes.foldl (fun v b => linkByte b v) u

/-- CONTROLLER_MESSAGE_RECEIVED (R96, R97): a message whole, or the bytes of one that has not come whole; outside RUNNING they
are discarded (R96). -/
def execControllerMessageReceived (payload : List Byte) (check : Option Byte) (s : State) :
    Host.Outcome State Fault Refusal :=
  unlessReset (fun u =>
    if isRunning u then
      match check with
      | some c => receiveController payload c u
      | none => linkBytes payload u
    else u) s

/-- LINK_LENGTH_DROP (R96): a byte is a length only right after the start byte. -/
def execLinkLengthDrop (length : Byte) (s : State) : Host.Outcome State Fault Refusal :=
  unlessReset (fun u =>
    if isRunning u && awaitsLength u.controller.framing && lengthOutside length then linkByte length u else u) s

/-- LINK_GAP_ABANDON (R96): a gap between messages has no effect. -/
def execLinkGapAbandon (s : State) : Host.Outcome State Fault Refusal :=
  unlessReset (fun u => if isRunning u && isCollecting u.controller.framing then dropLink u else u) s

/-- The controller link stays idle after an incomplete message, so that LINK_GAP_ABANDON is due (R96). -/
def linkGapDue (u : Bn24) : Bool := isRunning u && idleLine u.localTime u.controller.framing

/-- LINK_CHARACTER_ERROR (R96): discarded while hunting. -/
def execLinkCharacterError (s : State) : Host.Outcome State Fault Refusal :=
  unlessReset (fun u => if isRunning u && isCollecting u.controller.framing then dropLink u else u) s

/-- LINK_START_BYTE (R96): while hunting it begins a message; within one it is data, as any byte. -/
def execLinkStartByte (s : State) : Host.Outcome State Fault Refusal :=
  unlessReset (fun u => if isRunning u then linkByte Config.startByte u else u) s

/-- The silence timer has run its 30 ds (R100). -/
def silenceDue (u : Bn24) : Bool :=
  isRunning u && !u.controller.silent
    && (match u.controller.silenceStart with
        | some t => decide ((Config.silenceLimit : Int) ≤ age u.localTime t)
        | none => false)

/-- What a declared silence does to the grant slot (R100). -/
def silenceGrant (u : Bn24) : Bn24 :=
  match u.arbiter.slot with
  | .free => u
  | .offered o =>
    match o.entry with
    | none => setGrant .free u
    | some r => setGrant .free (returnToWaiting r u)
  | .active g => grantEnded g (returnMembers g.members (handLink (.clear g.id) u))

/-- CONTROLLER_SILENCE (R100): the silence request that follows is a request of its own to the table. -/
def execControllerSilence (s : State) : Host.Outcome State Fault Refusal :=
  unlessReset (fun u =>
    if silenceDue u then
      let u1 := { u with controller := { u.controller with silent := true, silenceStart := none } }
      sendTable [.silence] (silenceGrant (flag .controllerSilent (count .controllerSilences u1)))
    else u) s

/-- The bytes that the transmitter is sending (R99, R204). -/
def transmittedBytes (u : Bn24) : Option (List Byte) := u.controller.sending.map LinkMessage.bytes

/-- The bits that the transmitter puts on the controller link for the message it is sending, in their order (R96, R202). -/
def transmittedBits (u : Bn24) : Option (List Bool) := (transmittedBytes u).map (fun bytes => bytes.flatMap serialBits)

/-- CONTROLLER_MESSAGE_SENT (R99): in every run state, since what was handed before LOADING is sent in full. -/
def execControllerMessageSent (s : State) : Host.Outcome State Fault Refusal :=
  unlessReset (fun u =>
    match u.controller.sending with
    | none => u
    | some _ =>
      { u with controller :=
        { u.controller with sending := u.controller.waiting.head?, waiting := u.controller.waiting.tail } }) s

end Sys2Proof.Machine
end

