-- ==== Sys2Proof/Machine/Detection.lean ====
section
/-! DEFINITION. The Detection Receiver (chapter 5): framing, checking, and the inbox. -/

namespace Sys2Proof.Machine

/-- Sets the framing state (R104). -/
def setDetFraming (f : Framing) (u : Bn24) : Bn24 := { u with detection := { u.detection with framing := f } }

/-- A good message is offered to the inbox (R113); its turn reaches the table as it enters (R6). -/
def offerInbox (m : DetectionMessage) (u : Bn24) : Bn24 :=
  if u.detection.inbox.length < Config.inboxCapacity then
    sendTable [.detection] { u with detection := { u.detection with inbox := u.detection.inbox ++ [m] } }
  else flag .inboxOverflow (count .detOverflow u)

/-- A detection message received whole (R107): tested, clamped, and offered to the inbox if it passes. -/
def receiveDetection (payload : List Byte) (check : Byte) (u : Bn24) : Bn24 :=
  let u1 := setDetFraming .hunting u
  match parseDetection u payload check with
  | .drop c => count c u1
  | .good m => offerInbox m u1

/-- A message dropped for its length or abandoned (R104, R106, R112). -/
def dropDetection (u : Bn24) : Bn24 := count .detBad (setDetFraming .hunting u)

/-- A gap before the next byte abandons the message, and that byte is the first of the hunt (R106). -/
def afterDetectionGap (u : Bn24) : Bn24 := if gapPassed u.localTime u.detection.framing then dropDetection u else u

/-- A byte taken by the framing state (R104). -/
def frameDetectionByte (b : Byte) (u : Bn24) : Bn24 :=
  match nextByte u.localTime b u.detection.framing with
  | .goesOn f => setDetFraming f u
  | .dropped => dropDetection u
  | .whole payload check => receiveDetection payload check u

/-- A byte completed on the detection line (R104, R106). -/
def detectionByte (b : Byte) (u : Bn24) : Bn24 := frameDetectionByte b (afterDetectionGap u)

/-- Bytes completed on the detection line, one after the other. -/
def detectionBytes (bytes : List Byte) (u : Bn24) : Bn24 := bytes.foldl (fun v b => detectionByte b v) u

/-- DET_MESSAGE_RECEIVED (R104, R107): a message whole, or the bytes of one that has not come whole; outside RUNNING they are
discarded (R116). -/
def execDetMessageReceived (payload : List Byte) (check : Option Byte) (s : State) : Host.Outcome State Fault Refusal :=
  unlessReset (fun u =>
    if isRunning u then
      match check with
      | some c => receiveDetection payload c u
      | none => detectionBytes payload u
    else u) s

/-- DET_LENGTH_DROP (R104): a byte is a length only right after the start byte. -/
def execDetLengthDrop (length : Byte) (s : State) : Host.Outcome State Fault Refusal :=
  unlessReset (fun u =>
    if isRunning u && awaitsLength u.detection.framing && lengthOutside length then detectionByte length u else u) s

/-- DET_GAP_ABANDON (R106): a gap between messages has no effect. -/
def execDetGapAbandon (s : State) : Host.Outcome State Fault Refusal :=
  unlessReset (fun u => if isRunning u && isCollecting u.detection.framing then dropDetection u else u) s

/-- The detection line stays idle after an incomplete message, so that DET_GAP_ABANDON is due (R106). -/
def detectionGapDue (u : Bn24) : Bool := isRunning u && idleLine u.localTime u.detection.framing

/-- DET_CHARACTER_ERROR (R103): discarded while hunting. -/
def execDetCharacterError (s : State) : Host.Outcome State Fault Refusal :=
  unlessReset (fun u => if isRunning u && isCollecting u.detection.framing then dropDetection u else u) s

/-- DET_START_BYTE (R104): while hunting it begins a message; within one it is data, as any byte. -/
def execDetStartByte (s : State) : Host.Outcome State Fault Refusal :=
  unlessReset (fun u => if isRunning u then detectionByte Config.startByte u else u) s

end Sys2Proof.Machine
end

