-- ==== Sys2Proof/Machine/Corridor.lean ====
section
/-! DEFINITION. The Corridor Port (chapter 6): the transmit queue, attempts, reception, clash and silence. -/

namespace Sys2Proof.Machine

/-- Changes the port's own state. -/
def setPort (f : CorridorPort → CorridorPort) (u : Bn24) : Bn24 := { u with port := f u.port }

/-! ### The transmit queue (section 6.5) -/

/-- Whether a queued frame is a BEACON. -/
def isBeacon (f : QueuedFrame) : Bool :=
  match f.body with
  | .beacon => true
  | .passage _ => false
  | .withdraw _ => false

/-- Places a frame that enters now: behind every frame of its urgency or a smaller value (R134). -/
def insertFrame (f : QueuedFrame) : List QueuedFrame → List QueuedFrame
  | [] => [f]
  | g :: rest => if f.urgency < g.urgency then f :: g :: rest else g :: insertFrame f rest

/-- The queued BEACON with a refreshed entry time, and the other frames (R135). -/
def refreshBeacon (now : Time) (b : QueuedFrame) (queue : List QueuedFrame) : List QueuedFrame :=
  insertFrame { b with entryTime := now } (queue.filter (fun f => !isBeacon f))

/-- A frame that a newcomer of urgency n may displace (R136). -/
def displaceable (n : Nat) (f : QueuedFrame) : Bool := !f.underAttempt && decide (n < f.urgency)

/-- The largest urgency value among the displaceable frames (R136). -/
def worstUrgency (n : Nat) (queue : List QueuedFrame) : Nat :=
  (queue.filter (displaceable n)).foldl (fun m f => max m f.urgency) 0

/-- The frame to discard for a newcomer of urgency n: of the largest urgency value, the one that entered last (R136). -/
def isWorst (n worst : Nat) (f : QueuedFrame) : Bool := displaceable n f && decide (f.urgency = worst)

/-- Removes the last frame that a test selects. -/
def removeLast (p : QueuedFrame → Bool) (queue : List QueuedFrame) : List QueuedFrame := (queue.reverse.eraseP p).reverse

/-- The queue without the frame that a newcomer of urgency n displaces (R136). -/
def withoutWorst (n : Nat) (queue : List QueuedFrame) : List QueuedFrame :=
  removeLast (isWorst n (worstUrgency n queue)) queue

/-- Places an offered frame in the queue (R135, R136). -/
def placeFrame (f : QueuedFrame) (u : Bn24) : Bn24 :=
  match (if isBeacon f then u.port.queue.find? isBeacon else none) with
  | some b => setPort (fun p => { p with queue := refreshBeacon f.entryTime b p.queue }) u
  | none =>
    if u.port.queue.length < Config.queueCapacity then
      setPort (fun p => { p with queue := insertFrame f p.queue }) u
    else if u.port.queue.any (displaceable f.urgency) then
      count .sendDiscards (setPort (fun p => { p with queue := insertFrame f (withoutWorst f.urgency p.queue) }) u)
    else count .sendDiscards u

/-- A frame built now for the queue. -/
def newFrame (u : Bn24) (body : FrameBody) (urgency : Nat) : QueuedFrame :=
  { body := body, urgency := urgency, entryTime := u.localTime, sender := u.loader.inForce.station, underAttempt := false }

/-- A frame offered to the transmit queue, by the port state (R134, R135, R140, R147). -/
def offerFrame (body : FrameBody) (urgency : Nat) (u : Bn24) : Bn24 :=
  match u.port.state with
  | .off => u
  | .silent => count .sendDiscards u
  | .quietWait | .idle | .contend | .send | .receive => placeFrame (newFrame u body urgency) u

/-! ### Line timing (R123, R126) -/

/-- The line is recessive now (R119). -/
def isRecessive : LineLevel → Bool
  | .dominant => false
  | .recessive _ => true

/-- Slot times for which the line has been recessive, at a report after it had been so for `before`: a stretch that began since
counts for itself, and one as long as the report goes on (R126). -/
def recessiveFor (before : Nat) (report : LineReport) : Nat :=
  match report.level with
  | .dominant => 0
  | .recessive n => if n < report.slots then n else before + report.slots

/-- A falling edge restarts the line's timing and is remembered during QUIET_WAIT (R123, R126). -/
def edgeObserved (p : CorridorPort) : CorridorPort :=
  { p with lineTimer := some 0, recessive := 0, edgeSeen := p.edgeSeen || decide (p.state = .quietWait) }

/-- The line's timing when a report begins to count: at an edge that no command before has told, or where it stood (R123). -/
def timingBefore (report : LineReport) (p : CorridorPort) : CorridorPort := if report.edge then edgeObserved p else p

/-- The line's timing after a report of slot times without a falling edge; nothing distinguishes counts above 200. -/
def advanceTimer (report : LineReport) (p : CorridorPort) : CorridorPort :=
  let p1 := timingBefore report p
  { p1 with lineTimer := some (min Config.quietSlots (p1.lineTimer.getD 0 + report.slots))
            recessive := min Config.quietSlots (recessiveFor p1.recessive report) }

/-- The count of the line timer. -/
def quietFor (p : CorridorPort) : Nat := p.lineTimer.getD 0

/-- The line is free: recessive, and 15 slot times from its last falling edge (R123). -/
def lineFree (level : LineLevel) (p : CorridorPort) : Bool := isRecessive level && decide (Config.freeSlots ≤ quietFor p)

/-- The quiet wait ends (R126). -/
def quietWaitOver (level : LineLevel) (p : CorridorPort) : Bool :=
  (p.edgeSeen && lineFree level p) || decide (Config.quietSlots ≤ p.recessive)

/-- QUIET_WAIT_END (R126): the slot times reported are added to the line's timing, and the wait ends if they suffice. -/
def execQuietWaitEnd (report : LineReport) (s : State) : Host.Outcome State Fault Refusal :=
  unlessReset (fun u =>
    match u.port.state, u.port.decoding with
    | .quietWait, none =>
      setPort (fun p =>
        let p1 := advanceTimer report p
        if quietWaitOver report.level p1 then { p1 with state := .idle } else p1) u
    | _, _ => u) s

/-! ### Attempts (section 6.4) -/

/-- The frame has waited longer than the send budget (R137). -/
def overBudget (u : Bn24) (f : QueuedFrame) : Bool := decide (((paramsOf u).sendBudget : Int) < age u.localTime f.entryTime)

/-- Heads over the budget are discarded one after the other (R129, R137). -/
def applyBudget (u : Bn24) : Bn24 :=
  countTimes .sendDiscards (u.port.queue.takeWhile (overBudget u)).length
    (setPort (fun p => { p with queue := p.queue.dropWhile (overBudget u) }) u)

/-- The stamped bits of an attempt at a frame (R122, R129). -/
def attemptOf (u : Bn24) (f : QueuedFrame) : Attempt :=
  { start := u.localTime, header := queuedHeader f, payload := stampedPayload u f.body,
    check := frameCheck (queuedHeader f) (stampedPayload u f.body) }

/-- The port drives the line in CONTEND and SEND only (R119). -/
def drivesLine : PortState → Bool
  | .contend => true
  | .send => true
  | .off => false
  | .quietWait => false
  | .idle => false
  | .receive => false
  | .silent => false

/-- The bits that the port drives between the start mark and the end mark of the frame under attempt: header, payload and
check (R121); none while it does not drive. -/
def drivenBits (u : Bn24) : Option (List Bool) :=
  match drivesLine u.port.state, u.port.attempt with
  | true, some a => some (frameBits a.header a.payload ++ bitsOf 16 a.check)
  | _, _ => none

/-- An attempt at the head of the queue begins: the port drives the falling edge of its start mark (R129). The line's timing runs
on, because the count is of edges observed on the line (R123), and the drive may not reach it (R131). -/
def beginAttempt (u : Bn24) : Bn24 :=
  match u.port.queue with
  | [] => u
  | f :: rest =>
    setPort (fun p =>
      { p with state := .contend, queue := { f with underAttempt := true } :: rest, attempt := some (attemptOf u f) }) u

/-- ATTEMPT_START (R129): the slot times reported are added to the line's timing; on a free line with a frame queued the send
budget is applied and the head that passes is attempted. -/
def execAttemptStart (report : LineReport) (s : State) : Host.Outcome State Fault Refusal :=
  unlessReset (fun u =>
    match u.port.state with
    | .idle =>
      let u1 := setPort (advanceTimer report) u
      if lineFree report.level u1.port then beginAttempt (applyBudget u1) else u1
    | .off | .quietWait | .contend | .send | .receive | .silent => u) s

/-- No frame is under attempt any more (R130, R131, R133). -/
def releaseFrame (f : QueuedFrame) : QueuedFrame := { f with underAttempt := false }

/-- The attempt ends without completion and the port decodes what is on the line (R128, R130, R131). -/
def loseAttempt (afterFault : Bool) (u : Bn24) : Bn24 :=
  setPort (fun p =>
    { p with
      state := .receive, queue := p.queue.map releaseFrame, attempt := none
      decoding := some
        { startMark := (match p.attempt with | some a => a.start | none => u.localTime), afterFault := afterFault } }) u

/-- ARBITRATION_LOSS (R130): a 0 read back is a dominant line, so a falling edge has been observed (R123). -/
def execArbitrationLoss (s : State) : Host.Outcome State Fault Refusal :=
  unlessReset (fun u =>
    match u.port.state with
    | .contend => count .arbitrationLosses (loseAttempt false (setPort edgeObserved u))
    | .off | .quietWait | .idle | .send | .receive | .silent => u) s

/-- ARBITRATION_WON (R130): every bit has been read back as sent, so falling edges have been observed (R123). -/
def execArbitrationWon (s : State) : Host.Outcome State Fault Refusal :=
  unlessReset (fun u =>
    match u.port.state with
    | .contend => setPort (fun p => { edgeObserved p with state := .send }) u
    | .off | .quietWait | .idle | .send | .receive | .silent => u) s

/-- LINE_FAULT (R131). Whether the attempt brought a falling edge to the line is told by the next report: a drive that does not
reach the line leaves the count at the edge before it (R123, assumption 8). -/
def execLineFault (s : State) : Host.Outcome State Fault Refusal :=
  unlessReset (fun u =>
    match u.port.state with
    | .contend | .send => count .lineFaults (loseAttempt true u)
    | .off | .quietWait | .idle | .receive | .silent => u) s

/-- Slot times from the last falling edge of a whole frame to the end of its end mark: its last check slot and the two of
the end mark (R123). -/
def endMarkTimer : Nat := 3

/-- Whole slot times for which the line has been recessive then: those of the end mark (R121). -/
def endMarkRecessive : Nat := 2

/-- SEND_COMPLETE (R132). -/
def execSendComplete (s : State) : Host.Outcome State Fault Refusal :=
  unlessReset (fun u =>
    match u.port.state with
    | .send =>
      count .framesSent
        (setPort (fun p =>
          { p with state := .idle, queue := p.queue.filter (fun f => !f.underAttempt), attempt := none,
                   lineTimer := some endMarkTimer, recessive := endMarkRecessive }) u)
    | .off | .quietWait | .idle | .contend | .receive | .silent => u) s

/-! ### Receiving (section 6.3) -/

/-- The port decodes frames or watches for them, and does not drive (R124, R125). -/
def listening : PortState → Bool
  | .quietWait => true
  | .idle => true
  | .receive => true
  | .silent => true
  | .off => false
  | .contend => false
  | .send => false

/-- START_MARK_DETECTED (R124): taken by a port that is not decoding a frame and is not driving. -/
def execStartMarkDetected (s : State) : Host.Outcome State Fault Refusal :=
  unlessReset (fun u =>
    match listening u.port.state, u.port.decoding with
    | true, none =>
      setPort (fun p =>
        let p1 := edgeObserved p
        { p1 with
          state := if p1.state = .idle then .receive else p1.state
          decoding := some { startMark := u.localTime, afterFault := false } }) u
    | _, _ => u) s

/-- PULSE_NOT_FRAME (R124): ignored without count, but the timing restarts. -/
def execPulseNotFrame (s : State) : Host.Outcome State Fault Refusal :=
  unlessReset (fun u =>
    match listening u.port.state, u.port.decoding with
    | true, none => setPort edgeObserved u
    | _, _ => u) s

/-- The port has stopped decoding: RECEIVE returns to IDLE, QUIET_WAIT and SILENT stay (R125), and the line's timing becomes
what the end of the frame makes it. -/
def stopDecoding (timing : CorridorPort → CorridorPort) (u : Bn24) : Bn24 :=
  setPort (fun p =>
    let p1 := timing p
    { p1 with
      state := (match p1.state with
        | .receive => .idle
        | .off => .off
        | .quietWait => .quietWait
        | .idle => .idle
        | .contend => .contend
        | .send => .send
        | .silent => .silent)
      decoding := none }) u

/-- The line's timing at the end of a whole frame: the last falling edge began its last check slot (R123). -/
def frameEnded (p : CorridorPort) : CorridorPort :=
  { edgeObserved p with lineTimer := some endMarkTimer, recessive := endMarkRecessive }

/-- Whether the frame being decoded is the remainder after a line fault (R128). -/
def afterFault (u : Bn24) : Bool :=
  match u.port.decoding with
  | some d => d.afterFault
  | none => false

/-- The local time of the start mark of the frame received (R127); the present for a frame whose start was not stepped
(assumption 6). -/
def startMarkOf (u : Bn24) : Time :=
  match u.port.decoding with
  | some d => d.startMark
  | none => u.localTime

/-- A malformed frame is counted once, but not as the remainder after a line fault (R127, R128). -/
def dropMalformed (timing : CorridorPort → CorridorPort) (u : Bn24) : Bn24 :=
  let u1 := stopDecoding timing u
  if afterFault u then u1 else count .frameCheckErrors u1

/-- The line's timing at a malformed frame: it restarts at the frame's last falling edge, wherever in the frame that lay. The
remainder after a line fault need have none, so there the timing stands, and the next report tells an edge (R123,
assumption 8). -/
def frameBroken (p : CorridorPort) : CorridorPort := if p.decoding.any Decoding.afterFault then p else edgeObserved p

/-- FRAME_MALFORMED (R124). DESIGN CHOICE (assumption 6): the command stands for the whole of a malformed frame, so in a port
that listens and is decoding none it counts and restarts the timing as well. -/
def execFrameMalformed (s : State) : Host.Outcome State Fault Refusal :=
  unlessReset (fun u => if listening u.port.state then dropMalformed frameBroken u else u) s

/-- A clash (R139): SILENT, the queue emptied with each frame counted, and the flag. -/
def takeClash (u : Bn24) : Bn24 :=
  flag .clash
    (countTimes .sendDiscards u.port.queue.length (setPort (fun p => { p with state := .silent, queue := [] }) u))

/-- The delivery of a valid frame (R127). -/
def deliverFrame (header : Half) (payload : List Byte) (startMark : Time) (u : Bn24) : Bn24 :=
  let sender := headerSender header
  if headerKind header = 1 then
    { u with clock := { u.clock with beacons := u.clock.beacons ++ [beaconOf sender payload startMark] } }
  else if headerKind header = 2 then
    { u with handler := { u.handler with frames := u.handler.frames ++ [.passage (passageOf sender payload)] } }
  else
    { u with handler := { u.handler with frames := u.handler.frames ++
      [.withdraw sender { vehicle := halfAt payload 0, trip := byteAt payload 2 }] } }

/-- A frame received whole (R127, R139). A bad header stops decoding as a malformed slot does. -/
def receiveFrame (header : Half) (payload : List Byte) (check : Half) (u : Bn24) : Bn24 :=
  if badHeader header then dropMalformed frameEnded u
  else
    let u1 := stopDecoding frameEnded u
    if frameValid header payload check then
      let u2 := count .framesReceived u1
      if headerSender header = u.loader.inForce.station then takeClash u2
      else deliverFrame header payload (startMarkOf u) u2
    else count .frameCheckErrors u1

/-- FRAME_RECEIVED (R127). -/
def execFrameReceived (header : Half) (payload : List Byte) (check : Half) (s : State) :
    Host.Outcome State Fault Refusal :=
  unlessReset (fun u => if listening u.port.state then receiveFrame header payload check u else u) s

end Sys2Proof.Machine
end

