-- ==== Sys2Proof/Machine/Handler.lean ====
section
/-! DEFINITION. The Corridor Message Handler (chapter 7): departure reports and withdrawals, sent and received. -/

namespace Sys2Proof.Machine

/-- The handler has taken the table's request at the front (R143). -/
def popHandlerRequest (u : Bn24) : Bn24 := { u with handler := { u.handler with requests := u.handler.requests.tail } }

/-- The handler has taken the port's frame at the front (R143). -/
def popHandlerFrame (u : Bn24) : Bn24 := { u with handler := { u.handler with frames := u.handler.frames.tail } }

/-- The urgency of a PASSAGE (R145). -/
def passageUrgency (grade : Nat) : Nat := if 8 ≤ grade then 2 else 4

/-- The fields of a PASSAGE built from a request (R144). -/
def passageFields (r : PassageRequest) (d : FlowDirection) (next : Nat) : PassageFields :=
  { key := r.key, routeClass := r.routeClass, lateness := r.lateness, chain := r.chain, direction := d, next := next,
    checkOut := r.checkOut }

/-- A PASSAGE request (R144): the direction and the next station are read when it is handled. -/
def buildPassage (r : PassageRequest) (u : Bn24) : Bn24 :=
  match passageTarget u r.approach with
  | some (d, next) => offerFrame (.passage (passageFields r d next)) (passageUrgency r.grade) u
  | none => u

/-- A request of the table, as the handler handles it (R144, R148). -/
def handleRequest : HandlerRequest → Bn24 → Bn24
  | .passage r => buildPassage r
  | .withdraw k => offerFrame (.withdraw k) 1

/-- PASSAGE_REQUEST (R144). -/
def execPassageRequest (s : State) : Host.Outcome State Fault Refusal :=
  unlessReset (fun u =>
    match u.handler.requests with
    | .passage r :: _ => handleRequest (.passage r) (popHandlerRequest u)
    | _ => u) s

/-- WITHDRAW_REQUEST (R148). -/
def execWithdrawRequest (s : State) : Host.Outcome State Fault Refusal :=
  unlessReset (fun u =>
    match u.handler.requests with
    | .withdraw k :: _ => handleRequest (.withdraw k) (popHandlerRequest u)
    | _ => u) s

/-- The link record that accepts a PASSAGE: of its direction, with its sender upstream (R150). -/
def acceptingLink (u : Bn24) (f : ReceivedPassage) : Option LinkRecord :=
  match linkRecord u f.direction with
  | some l => if l.upstream = f.sender then some l else none
  | none => none

/-- A PASSAGE addressed to this unit (R150, R151). -/
def passageHere (f : ReceivedPassage) (u : Bn24) : Bn24 :=
  match acceptingLink u f with
  | none => count .forecastDiscarded u
  | some l =>
    sendTable
      [.forecast { key := f.key, chain := f.chain, approach := l.approach, result := passageForecast u f l }] u

/-- A received PASSAGE (R149 to R153). -/
def handlePassage (f : ReceivedPassage) (u : Bn24) : Bn24 :=
  if badVehicle f.key.vehicle then
    if f.next = u.loader.inForce.station then count .forecastDiscarded u else u
  else if f.next = u.loader.inForce.station then passageHere f u
  else sendTable [.invalidation f.key] u

/-- A frame delivered by the port, as the handler handles it (R149, R154). -/
def handleFrame : ReceivedFrame → Bn24 → Bn24
  | .passage f => handlePassage f
  | .withdraw _ k => sendTable [.invalidation k]

/-- PASSAGE_RECEIVED (R149). -/
def execPassageReceived (s : State) : Host.Outcome State Fault Refusal :=
  unlessReset (fun u =>
    match u.handler.frames with
    | .passage f :: _ => handleFrame (.passage f) (popHandlerFrame u)
    | _ => u) s

/-- WITHDRAW_RECEIVED (R154). -/
def execWithdrawReceived (s : State) : Host.Outcome State Fault Refusal :=
  unlessReset (fun u =>
    match u.handler.frames with
    | .withdraw sender k :: _ => handleFrame (.withdraw sender k) (popHandlerFrame u)
    | _ => u) s

/-- What reached the handler before LOADING began and still waits is handled: its requests, then its frames. Before RUNNING
resumes they meet a port that is OFF and a table that discards (R158). -/
def settleHandler (u : Bn24) : Bn24 :=
  u.handler.frames.foldl (fun v f => handleFrame f v)
    (u.handler.requests.foldl (fun v r => handleRequest r v) { u with handler := { requests := [], frames := [] } })

end Sys2Proof.Machine
end

