-- ==== Sys2Proof/Machine/CorridorTime.lean ====
section
/-! DEFINITION. The Corridor Time Unit (chapter 8): the peer table, the lock states and the reference, beacons sent and
received, and what a RELOAD saves and a start resumes. -/

namespace Sys2Proof.Machine

/-- Changes the Corridor Time Unit's own state. -/
def setClock (f : TimeUnit → TimeUnit) (u : Bn24) : Bn24 := { u with clock := f u.clock }

/-- The unit's own station number (R183). -/
def ownStation (u : Bn24) : Nat := u.loader.inForce.station

/-! ### LOCK_EVENT (R176) -/

/-- The unit enters FINE (R176). -/
def enteredFine (u : Bn24) : Bn24 :=
  if (paramsOf u).lockEventMode = 1 ∨ (paramsOf u).lockEventMode = 3 then flag .lockEvent u else u

/-- The unit has left FINE (R176). -/
def leftFine (u : Bn24) : Bn24 :=
  if (paramsOf u).lockEventMode = 2 ∨ (paramsOf u).lockEventMode = 3 then flag .lockEvent u else u

/-- The LOCK_EVENT of leaving a lock state for another: only FINE has one (R176). -/
def leftState (old : LockState) (u : Bn24) : Bn24 :=
  match old with
  | .fine => leftFine u
  | .off | .acquiring | .coarse | .holdover | .free => u

/-! ### The peer table (section 8.2) -/

/-- The advertised fields of a BEACON are consistent: the lock state it names, none if it is inconsistent (R162). -/
def consistentLock (b : ReceivedBeacon) : Option LockState :=
  if 60 < b.reference then none
  else
    match lockOf b.lock with
    | none => none
    | some .off => none
    | some .acquiring => if b.reference = 0 then some .acquiring else none
    | some .free => if b.reference = 0 then some .free else none
    | some .coarse => if b.reference ≠ 0 ∧ b.reference < b.station then some .coarse else none
    | some .fine => if b.reference ≠ 0 ∧ b.reference < b.station then some .fine else none
    | some .holdover => if b.reference ≠ 0 ∧ b.reference < b.station then some .holdover else none

/-- The first record goes before the second in the choice of R163: an older last beacon, or the same time and a higher
station. -/
def replacedBefore (a b : Peer) : Bool :=
  earlier a.last b.last || (decide (a.last = b.last) && decide (b.station < a.station))

/-- The better candidate of the choice so far and the next (R163). -/
def chooseOldest (best : Option Peer) (p : Peer) : Option Peer :=
  match best with
  | none => some p
  | some b => if replacedBefore p b then some p else some b

/-- The record to replace: any but the current reference's, the oldest first (R163). Reference 0 is no station. -/
def replacedPeer (reference : Nat) (peers : List Peer) : Option Peer :=
  (peers.filter (fun p => decide (p.station ≠ reference))).foldl chooseOldest none

/-- A record in another's place. -/
def swapPeer (out new p : Peer) : Peer := if p.station = out.station then new else p

/-- The peer table with a record of a consistent beacon: refreshed, new in a free place, or in a replaced record's place
(R162, R163). -/
def recordPeer (new : Peer) (reference : Nat) (peers : List Peer) : List Peer :=
  if peers.any (fun p => decide (p.station = new.station)) then peers.map (swapPeer new new)
  else if peers.length < Config.peerCapacity then peers ++ [new]
  else
    match replacedPeer reference peers with
    | some out => peers.map (swapPeer out new)
    | none => peers

/-- The peer table holds a non-stale record of a station lower than s (R172, R173, R180). -/
def liveLower (u : Bn24) (s : Nat) : Bool :=
  u.clock.peers.any (fun p => decide (p.station < s) && !peerStale u p)

/-! ### Taking and following a reference (section 8.3) -/

/-- The error of a beacon (R166). -/
def beaconError (u : Bn24) (b : ReceivedBeacon) : Int := timeDiff b.time (b.startMark + u.clock.offset)

/-- The offset moved by e, modulo 2^24 (R166). -/
def moveOffset (e : Int) (c : TimeUnit) : TimeUnit := { c with offset := c.offset + BitVec.ofInt 24 e }

/-- The slew of an error (R166, R170). -/
def slewOf (e : Int) : Int := if 0 < e then 1 else if e < 0 then -1 else 0

/-- A step: the offset moves by the error and TIME_STEPS is counted (R165, R166). -/
def stepOffset (e : Int) (u : Bn24) : Bn24 := count .timeSteps (setClock (moveOffset e) u)

/-- A station becomes the reference, REFERENCE_CHANGES being counted if it is another than the one held (R165). -/
def setReference (station : Nat) (u : Bn24) : Bn24 :=
  let u1 := setClock (fun c => { c with reference := station }) u
  if station = u.clock.reference then u1 else count .referenceChanges u1

/-- Taking a reference: it changes, the unit steps and enters COARSE with fine count 0 (R167, R168, R172). -/
def takeReference (station : Nat) (e : Int) (u : Bn24) : Bn24 :=
  leftState u.clock.lock
    (setClock (fun c => { c with lock := .coarse, fine := 0, acqStart := none, holdStart := none })
      (stepOffset e (setReference station u)))

/-- A beacon from the reference in COARSE, by the size of its error (R169). -/
def followCoarse (e : Int) (u : Bn24) : Bn24 :=
  if Config.coarseWindow < e.natAbs then setClock (fun c => { c with fine := 0 }) (stepOffset e u)
  else if Config.fineWindow < e.natAbs then setClock (fun c => { moveOffset e c with fine := 0 }) u
  else if u.clock.fine < 2 then setClock (fun c => { moveOffset e c with fine := c.fine + 1 }) u
  else enteredFine (setClock (fun c => { moveOffset e c with fine := 3, miss := 0, lock := .fine }) u)

/-- A beacon from the reference in FINE, by the size of its error (R170). -/
def followFine (e : Int) (u : Bn24) : Bn24 :=
  if Config.coarseWindow < e.natAbs then
    leftFine (setClock (fun c => { c with lock := .coarse, fine := 0 }) (stepOffset e u))
  else if e.natAbs ≤ Config.fineWindow then setClock (fun c => { moveOffset (slewOf e) c with miss := 0 }) u
  else if u.clock.miss < 2 then setClock (fun c => { moveOffset (slewOf e) c with miss := c.miss + 1 }) u
  else leftFine (setClock (fun c => { moveOffset (slewOf e) c with miss := 3, fine := 0, lock := .coarse }) u)

/-- A lower station than the current reference, or any where there is none (R168). -/
def takesOver (u : Bn24) (station : Nat) : Bool :=
  decide (u.clock.reference = 0) || decide (station < u.clock.reference)

/-- A recorded beacon from a station lower than the unit's own, by the lock state (R167 to R172). -/
def applyLowerBeacon (station : Nat) (e : Int) (u : Bn24) : Bn24 :=
  match u.clock.lock with
  | .off => u
  | .acquiring => takeReference station e u
  | .free => takeReference station e u
  | .coarse =>
    if takesOver u station then takeReference station e u
    else if station = u.clock.reference then followCoarse e u
    else u
  | .fine =>
    if takesOver u station then takeReference station e u
    else if station = u.clock.reference then followFine e u
    else u
  | .holdover => if liveLower u station then u else takeReference station e u

/-- A consistent beacon is recorded and applied in one handling (R162). -/
def applyBeacon (b : ReceivedBeacon) (lock : LockState) (u : Bn24) : Bn24 :=
  let new : Peer := { station := b.station, last := b.startMark, lock := lock }
  let u1 := setClock (fun c => { c with peers := recordPeer new c.reference c.peers }) u
  if b.station < ownStation u then applyLowerBeacon b.station (beaconError u b) u1 else u1

/-- A delivered BEACON (R162); while the unit is OFF it receives none (R180). -/
def handleBeacon (b : ReceivedBeacon) (u : Bn24) : Bn24 :=
  if u.clock.lock = .off then u
  else
    match consistentLock b with
    | some lock => applyBeacon b lock u
    | none => u

/-- BEACON_RECEIVED (R162): the unit takes the beacon at the front of those delivered. -/
def execBeaconReceived (s : State) : Host.Outcome State Fault Refusal :=
  unlessReset (fun u =>
    match u.clock.beacons with
    | [] => u
    | b :: rest => handleBeacon b (setClock (fun c => { c with beacons := rest }) u)) s

/-! ### Holdover and free running -/

/-- More than n ds have passed since a recorded time. -/
def passed (u : Bn24) (n : Nat) (since : Option Time) : Bool :=
  match since with
  | some t => decide ((n : Int) < age u.localTime t)
  | none => false

/-- ACQUIRING is entered, with the offset as it was (R167). -/
def enterAcquiring (u : Bn24) : Bn24 :=
  setClock (fun c => { c with lock := .acquiring, reference := 0, fine := 0, miss := 0, acqStart := some u.localTime,
                              holdStart := none }) u

/-- FREE is entered, with the offset as it was (R167, R173). -/
def enterFree (u : Bn24) : Bn24 :=
  setClock (fun c => { c with lock := .free, reference := 0, acqStart := none, holdStart := none }) u

/-- HOLDOVER is entered (R171, R175). -/
def enterHoldover (u : Bn24) : Bn24 :=
  leftState u.clock.lock
    (flag .holdover
      (setClock (fun c => { c with lock := .holdover, fine := 0, miss := 0, holdStart := some u.localTime }) u))

/-- The unit follows a reference whose record is stale (R171). -/
def referenceIsStale (u : Bn24) : Bool :=
  (decide (u.clock.lock = .coarse) || decide (u.clock.lock = .fine))
    && (match peerOf u u.clock.reference with
        | some p => peerStale u p
        | none => false)

/-- The acquisition wait has passed the reference timeout (R167). -/
def acquisitionOver (u : Bn24) : Bool :=
  decide (u.clock.lock = .acquiring) && passed u (paramsOf u).referenceTimeout u.clock.acqStart

/-- The holdover limit has passed and no non-stale lower record exists (R173). -/
def holdoverOver (u : Bn24) : Bool :=
  decide (u.clock.lock = .holdover) && passed u (paramsOf u).holdoverLimit u.clock.holdStart
    && !liveLower u (ownStation u)

/-- ACQUISITION_WAIT_END (R167). -/
def execAcquisitionWaitEnd (s : State) : Host.Outcome State Fault Refusal :=
  unlessReset (fun u => if acquisitionOver u then enterFree u else u) s

/-- REFERENCE_STALE (R171). -/
def execReferenceStale (s : State) : Host.Outcome State Fault Refusal :=
  unlessReset (fun u => if referenceIsStale u then enterHoldover u else u) s

/-- HOLDOVER_LIMIT (R173): with a non-stale lower record the unit stays in HOLDOVER. -/
def execHoldoverLimit (s : State) : Host.Outcome State Fault Refusal :=
  unlessReset (fun u => if holdoverOver u then enterFree u else u) s

/-- LOWER_RECORD_STALE (R173): after the limit, the first moment without a non-stale lower record. -/
def execLowerRecordStale (s : State) : Host.Outcome State Fault Refusal :=
  unlessReset (fun u => if holdoverOver u then enterFree u else u) s

/-! ### Beacons sent (section 8.4) -/

/-- The beacon timer has run for the beacon interval (R178). -/
def beaconDue (u : Bn24) : Bool :=
  decide (u.clock.lock ≠ .off)
    && (match u.clock.beaconStart with
        | some t => decide (((paramsOf u).beaconInterval : Int) ≤ age u.localTime t)
        | none => false)

/-- BEACON_TIMER (R178): a BEACON of urgency 3 is offered and the timer starts again. -/
def execBeaconTimer (s : State) : Host.Outcome State Fault Refusal :=
  unlessReset (fun u =>
    if beaconDue u then offerFrame .beacon 3 (setClock (fun c => { c with beaconStart := some u.localTime }) u)
    else u) s

/-! ### Reload and start (section 8.5) -/

/-- What a RELOAD saves of the lock (R180). -/
def savedLock (c : TimeUnit) : SavedLock :=
  { lock := c.lock, reference := c.reference, fine := c.fine, miss := c.miss, holdStart := c.holdStart }

/-- RELOAD takes the unit OFF (R180, R192). From RUNNING it saves its state and notes the station and rate in force; the
reference shown meanwhile is the one held aside or none (assumption 4). Beacons not yet taken are lost (assumption 14). -/
def clockOff (u : Bn24) : Bn24 :=
  if isRunning u then
    setClock (fun c =>
      { c with
        lock := .off, reference := if Config.referenceShownWhileOff then c.reference else 0
        saved := some (savedLock c), noted := some (ownStation u, u.loader.inForce.rate)
        acqStart := none, holdStart := none, beaconStart := none, beacons := [] }) u
  else u

/-- The saved state is resumed, before what R180 applies at once. -/
def restoreLock (v : SavedLock) (u : Bn24) : Bn24 :=
  setClock (fun c => { c with lock := v.lock, reference := v.reference, fine := v.fine, miss := v.miss,
                              holdStart := v.holdStart, acqStart := none }) u

/-- The saved state is resumed (R180). -/
def resumeLock (v : SavedLock) (u : Bn24) : Bn24 :=
  let u1 := restoreLock v u
  match v.lock with
  | .off => enterAcquiring u
  | .acquiring => enterAcquiring u
  | .coarse => if referenceIsStale u1 then enterHoldover u1 else u1
  | .fine => if referenceIsStale u1 then enterHoldover u1 else u1
  | .holdover => if holdoverOver u1 then enterFree u1 else u1
  | .free => if liveLower u (ownStation u) then enterAcquiring u else u1

/-- RUNNING begins: the beacon timer starts, and the lock is resumed or starts in ACQUIRING (R167, R180, R190). -/
def clockStart (u : Bn24) : Bn24 :=
  let u1 := setClock (fun c => { c with beaconStart := some u.localTime, saved := none, noted := none }) u
  match u.clock.saved, u.clock.noted with
  | some v, some n =>
    if n = (ownStation u, u.loader.inForce.rate) then resumeLock v u1 else leftState v.lock (enterAcquiring u1)
  | _, _ => enterAcquiring u1

end Sys2Proof.Machine
end

