-- ==== Sys2Proof/Machine/MemoryLine.lean ====
section
/-! DEFINITION. The configuration memory line (R184): what the loader puts on it, as views of the commands and the state. -/

namespace Sys2Proof.Machine

/-- What the loader puts on the configuration memory line, in order: a pulse of ESCL that frees ESDA, a start or repeated start
condition, a byte sent, the answer to a byte read, a stop condition (R184). -/
inductive MemorySignal where
  | pulse
  | start
  | send (byte : Byte)
  | acknowledge
  | noAcknowledge
  | stop
deriving DecidableEq, Repr

/-- The memory's bus address with a direction bit, as it is sent (R184). -/
def memoryAddressByte : BusDirection → Byte
  | .write => Config.memoryAddress ++ (0 : BitVec 1)
  | .read => Config.memoryAddress ++ (1 : BitVec 1)

/-- The address of byte 0 of the memory, where every load begins to read (R184). -/
def firstImageByte : Half := 0

/-- The start conditions and the four bytes by which a load addresses the memory, each of which the memory must acknowledge: a
missed one is LOAD_FAULT (R184). -/
def addressingSignals : List MemorySignal :=
  [.start, .send (memoryAddressByte .write), .send (firstImageByte.extractLsb' 8 8), .send (firstImageByte.extractLsb' 0 8),
   .start, .send (memoryAddressByte .read)]

/-- ESDA is sampled high at the latest after the ninth pulse (R184). -/
def esdaFreed (esdaPulses : Nat) : Bool := decide (esdaPulses ≤ Config.clearPulses)

/-- What a load puts on the line before byte 0: as many pulses as free ESDA, nine at most, and then the addressing; an ESDA
that stays low leaves only the try of a stop condition (R184). -/
def openingSignals (esdaPulses : Nat) : List MemorySignal :=
  List.replicate (min esdaPulses Config.clearPulses) .pulse ++ (if esdaFreed esdaPulses then addressingSignals else [.stop])

/-- What a load that ends with LOAD_FAULT still puts on the line: it tries to send a stop condition (R184). -/
def faultSignals : List MemorySignal := [.stop]

/-- How many bytes of the memory a command of the load reads at a place of the read: no byte beyond byte 2047, the count only
behind a right table mark, and of a record the type byte and as many as its type fixes (R184, R185, R187). -/
def bytesRead (place : LoadPhase) (c : Instr) : Nat :=
  match place, c with
  | .addressing, .imageMarkRead _ => 1
  | .identity, .identityBlockRead _ _ _ _ => 4
  | .parameters, .parameterBlockRead _ _ => 19
  | .tableMark, .tableMarkRead mark _ => if mark = Config.imageMark then 2 else 1
  | .records (_ + 1) position, .tableRecordRead type _ =>
    min (1 + (bodyLength type).getD 0) (Config.lastImageByte + 1 - position)
  | _, _ => 0

/-- The loader's answers to the bytes that a command read, by the place of the read after it: each byte after which it wants
another is acknowledged, and the last byte it wants is not and is followed by a stop condition (R184). -/
def readAnswers (count : Nat) (placeAfter : LoadPhase) : List MemorySignal :=
  if count = 0 then []
  else if placeAfter = .none then List.replicate (count - 1) .acknowledge ++ [.noAcknowledge, .stop]
  else List.replicate count .acknowledge

/-- The loader leaves ESCL and ESDA released: always, but while it reads (R184, R193). -/
def memoryLineReleased (u : Bn24) : Bool := decide (u.loader.phase = .none)

end Sys2Proof.Machine
end

