-- ==== Sys2Proof/Machine/Loader.lean ====
section
/-! DEFINITION. The Configuration Loader (chapter 9): reset, the steps of a load, and what RELOAD does to every block. -/

namespace Sys2Proof.Machine

/-- Changes the loader's own state. -/
def setLoader (f : Loader → Loader) (u : Bn24) : Bn24 := { u with loader := f u.loader }

/-! ### The ends of a load -/

/-- A load ends in UNCONFIGURED: the working copy is discarded, and every block stays as it is (R183, R190). -/
def endUnconfigured (u : Bn24) : Bn24 :=
  setLoader (fun l => { l with run := .unconfigured, phase := .none, working := .fresh }) u

/-- A load ends with LOAD_FAULT; the lines are released with the end of the read (R184). -/
def faultLoad (u : Bn24) : Bn24 := endUnconfigured (flag .loadFault u)

/-- The working copy becomes the configuration in force and the run state RUNNING; the attention enables follow (R183,
R186, R190). -/
def installConfiguration (u : Bn24) : Bn24 :=
  { u with
    loader := { u.loader with run := .running, phase := .none, inForce := u.loader.working, working := .fresh }
    maint := { u.maint with enables := u.loader.working.params.enables } }

/-- The receivers hunt and the silence timer starts (R190). -/
def startReceivers (u : Bn24) : Bn24 :=
  { u with
    detection := { u.detection with framing := .hunting }
    controller := { u.controller with framing := .hunting, silenceStart := some u.localTime } }

/-- The Corridor Port enters QUIET_WAIT with fresh timing (R126, R142). -/
def startPort (u : Bn24) : Bn24 :=
  setPort (fun p => { p with state := .quietWait, lineTimer := some 0, recessive := 0, edgeSeen := false }) u

/-- A load ends in RUNNING (R190). What the handler still holds from before the load is handled first, at the latest, so that
none of it reaches the new configuration (R158, assumption 14). -/
def endRunning (u : Bn24) : Bn24 := clockStart (startPort (startReceivers (installConfiguration (settleHandler u))))

/-! ### The steps of a load -/

/-- A load begins: a fresh working copy, and ESDA brought high by at most nine pulses or LOAD_FAULT (R183, R184). -/
def beginLoad (esdaPulses : Nat) (u : Bn24) : Bn24 :=
  let u1 := setLoader (fun l => { l with run := .loading, phase := .addressing, working := .fresh }) u
  if esdaFreed esdaPulses then u1 else faultLoad u1

/-- Sets the part of the image that is read next. -/
def setPhaseOfLoad (p : LoadPhase) (u : Bn24) : Bn24 := setLoader (fun l => { l with phase := p }) u

/-- HARD_RESET (R191): every block in its hard-reset state, the reset in force. -/
def execHardReset (s : State) : Host.Outcome State Fault Refusal := .next { s with unit := .reset }

/-- The hard reset ends: the address pins are sampled and the first load begins (R184, R191, R194). -/
def releaseReset (madr : BitVec 2) (esdaPulses : Nat) (u : Bn24) : Bn24 :=
  beginLoad esdaPulses { u with resetHeld := false, maint := { u.maint with madr := madr } }

/-- RESET_RELEASE (R184, R191, R194). -/
def execResetRelease (madr : BitVec 2) (esdaPulses : Nat) (s : State) : Host.Outcome State Fault Refusal :=
  .next { s with unit := if s.unit.resetHeld then releaseReset madr esdaPulses s.unit else s.unit }

/-- A load is in progress (R182). -/
def loadInProgress (u : Bn24) : Bool := decide (u.loader.run = .loading) && decide (u.loader.phase ≠ .none)

/-- The loader is sending one of the four bytes that the memory must acknowledge: byte 0 has not been read yet (R184). -/
def addressingMemory (u : Bn24) : Bool := decide (u.loader.run = .loading) && decide (u.loader.phase = .addressing)

/-- LOAD_FAULT (R184): a missed acknowledge of one of the addressing bytes. Of the bytes read the memory acknowledges none, the
loader does, so none can be missed later. -/
def execLoadFault (s : State) : Host.Outcome State Fault Refusal :=
  unlessReset (fun u => if addressingMemory u then faultLoad u else u) s

/-- ESCL_HOLD_TIMEOUT (R184): the memory may delay any bit of the load. -/
def execEsclHoldTimeout (s : State) : Host.Outcome State Fault Refusal :=
  unlessReset (fun u => if loadInProgress u then faultLoad u else u) s

/-- IMAGE_MARK_READ (R185). -/
def execImageMarkRead (mark : Byte) (s : State) : Host.Outcome State Fault Refusal :=
  unlessReset (fun u =>
    match u.loader.phase with
    | .addressing => if mark = Config.imageMark then setPhaseOfLoad .identity u else endUnconfigured u
    | .none | .identity | .parameters | .tableMark | .records _ _ => u) s

/-- The identity block: the site code is recorded at once, then the station number decides (R183, R185). -/
def readIdentity (station rateCode site0 site1 : Byte) (u : Bn24) : Bn24 :=
  let u1 := setLoader (fun l => { l with siteCode := site0 ++ site1 }) u
  if station = 0 ∨ 60 < station.toNat then endUnconfigured u1
  else
    setLoader (fun l =>
      { l with phase := .parameters
               working := { l.working with station := station.toNat, rate := rateOf rateCode } }) u1

/-- IDENTITY_BLOCK_READ (R185). -/
def execIdentityBlockRead (station rateCode site0 site1 : Byte) (s : State) : Host.Outcome State Fault Refusal :=
  unlessReset (fun u =>
    match u.loader.phase with
    | .identity => readIdentity station rateCode site0 site1 u
    | .none | .addressing | .parameters | .tableMark | .records _ _ => u) s

/-- The parameter block, taken if its mark is right (R186). -/
def readParameters (mark : Byte) (block : List Byte) (u : Bn24) : Bn24 :=
  setLoader (fun l =>
    { l with phase := .tableMark
             working := if mark = Config.imageMark then { l.working with params := parseParameters block }
               else l.working }) u

/-- PARAMETER_BLOCK_READ (R186). -/
def execParameterBlockRead (mark : Byte) (block : Vector Byte 18) (s : State) : Host.Outcome State Fault Refusal :=
  unlessReset (fun u =>
    match u.loader.phase with
    | .parameters => readParameters mark block.toList u
    | .none | .addressing | .identity | .tableMark | .records _ _ => u) s

/-- The first byte of the first record (R187, R207). -/
def firstRecord : Nat := 26

/-- TABLE_MARK_READ (R187). -/
def execTableMarkRead (mark count : Byte) (s : State) : Host.Outcome State Fault Refusal :=
  unlessReset (fun u =>
    match u.loader.phase with
    | .tableMark =>
      if mark ≠ Config.imageMark ∨ count = 0 then endRunning u
      else setPhaseOfLoad (.records count.toNat firstRecord) u
    | .none | .addressing | .identity | .parameters | .records _ _ => u) s

/-- A record read in full: taken, or skipped with TABLE_FORMAT flagged (R188). -/
def takeOrSkip (type : Byte) (body : List Byte) (u : Bn24) : Bn24 :=
  match takeRecord type body u.loader.working with
  | some c => setLoader (fun l => { l with working := c }) u
  | none => flag .tableFormat u

/-- The table part runs past byte 2047 (R187). -/
def overflowTable (u : Bn24) : Bn24 := endRunning (flag .loadOverflow u)

/-- After a counted record: the end of the count, the next record, or the end of the memory (R187). -/
def nextRecord (remaining position : Nat) (u : Bn24) : Bn24 :=
  if remaining = 0 then endRunning u
  else if Config.lastImageByte < position then overflowTable u
  else setPhaseOfLoad (.records remaining position) u

/-- One counted record at a byte position (R187, R188). -/
def readRecord (type : Byte) (body : List Byte) (remaining position : Nat) (u : Bn24) : Bn24 :=
  match bodyLength type with
  | none => endRunning (flag .tableFormat u)
  | some n =>
    if Config.lastImageByte < position + n then overflowTable u
    else nextRecord remaining (position + 1 + n) (takeOrSkip type body u)

/-- TABLE_RECORD_READ (R187, R188). -/
def execTableRecordRead (type : Byte) (body : Vector Byte 11) (s : State) : Host.Outcome State Fault Refusal :=
  unlessReset (fun u =>
    match u.loader.phase with
    | .records (remaining + 1) position => readRecord type body.toList remaining position u
    | .none | .addressing | .identity | .parameters | .tableMark | .records 0 _ => u) s

/-! ### RELOAD (R192) -/

/-- The arbiter's CLEAR for an ACTIVE grant or an unanswered offer (R102, R192). -/
def clearForReload (u : Bn24) : Bn24 :=
  match u.arbiter.slot with
  | .free => u
  | .offered o => handLink (.clear o.id) u
  | .active g => handLink (.clear g.id) u

/-- The collections are emptied without count and the controller taken as not silent (R28, R102, R117, R192). -/
def emptyBlocks (u : Bn24) : Bn24 :=
  { u with
    table := { slots := Vector.replicate 24 none, evict := u.table.evict, recent := [], requests := [] }
    arbiter := { slot := .free, nextId := u.arbiter.nextId, joins := [] }
    controller :=
      { u.controller with
        phase := Vector.replicate 4 none, framing := .hunting, silent := false, silenceStart := none }
    detection := { framing := .hunting, inbox := [] } }

/-- The Corridor Port goes OFF, what it holds being abandoned without count (R141, R142). -/
def portOff (u : Bn24) : Bn24 :=
  setPort (fun _ =>
    { state := .off, queue := [], attempt := none, decoding := none, lineTimer := none, recessive := 0, edgeSeen := false }) u

/-- An accepted RELOAD, in the order of R192. -/
def doReload (esdaPulses : Nat) (u : Bn24) : Bn24 :=
  beginLoad esdaPulses (clockOff (portOff (emptyBlocks (clearForReload u))))

end Sys2Proof.Machine
end

