-- ==== Sys2Proof/Machine/Maintenance.lean ====
section
/-! DEFINITION. The Maintenance Port (chapter 10): the window, the read latch, transfers, the attention enables and the
commands. -/

namespace Sys2Proof.Machine

/-- Changes the maintenance block's own state. -/
def setMaint (f : Maintenance → Maintenance) (u : Bn24) : Bn24 := { u with maint := f u.maint }

/-! ### The window (R208, R209) -/

/-- The code of a run state (R208). -/
def RunState.code : RunState → Byte
  | .loading => 0
  | .running => 1
  | .unconfigured => 2

/-- The code of a Corridor Port state (R208). -/
def PortState.code : PortState → Byte
  | .off => 0
  | .quietWait => 1
  | .idle => 2
  | .contend => 3
  | .send => 4
  | .receive => 5
  | .silent => 6

/-- The code of the grant slot's state (R208). -/
def GrantSlot.code : GrantSlot → Byte
  | .free => 0
  | .offered _ => 1
  | .active _ => 2

/-- The code of the command status (R208). -/
def CommandStatus.code : CommandStatus → Byte
  | .idle => 0
  | .done => 1
  | .busy => 2
  | .refused => 3

/-- The partial flag is shown while the decision is present with it set (R66, R209). -/
def shownPartial (e : Entry) : Bool :=
  match e.decision with
  | some d => d.isPartial
  | none => false

/-- Bits 6 to 4 of the combined byte (R209). -/
def serviceCode (e : Entry) : BitVec 3 :=
  match e.service with
  | .waiting => 0
  | .armed => if shownPartial e then 2 else 1
  | .offered => if shownPartial e then 4 else 3
  | .granted => if shownPartial e then 6 else 5
  | .riding => 7

/-- The combined state and grade byte (R209). -/
def combinedByte (e : Entry) : Byte :=
  BitVec.ofBool (decide (e.confirmation = .confirmed)) ++ serviceCode e ++ BitVec.ofNat 4 e.grade

/-- A slot by its number. -/
def slotOf (n : Nat) : Option SlotIx := if h : n < 24 then some ⟨n, h⟩ else none

/-- The entry that the table view shows for slot n (R29). -/
def viewEntry (u : Bn24) (n : Nat) : Option Entry :=
  match slotOf n with
  | some i => entryIn u i
  | none => none

/-- The 10 positions of a two-byte field of flags that carry one; bits 10 to 15 read 0 (R208). -/
def flagBits : Half := 0x03FF

/-- The attention enables as they are read: all 16 bits are held as written or loaded (R186, R200), and bits 10 to 15, which
carry no flag, read 0 (R208; assumption 25). -/
def shownEnables (m : Maintenance) : Half := m.enables &&& flagBits

/-- The two-byte field whose first byte lies at an address, as it stands; none elsewhere (R195, R208). -/
def halfField (u : Bn24) (a : Nat) : Option Half :=
  if a = 0x0A then some u.maint.flags
  else if a = 0x0C then some (shownEnables u.maint)
  else if 0x20 ≤ a ∧ a ≤ 0x54 ∧ a % 2 = 0 then some (u.maint.counters.toList.getD ((a - 0x20) / 2) 0)
  else if 0x60 ≤ a ∧ a ≤ 0xBF ∧ a % 4 = 0 then
    match viewEntry u ((a - 0x60) / 4) with
    | some e => some e.key.vehicle
    | none => some 0
  else none

/-- The two-byte field whose second byte lies at an address (R195). -/
def secondField (u : Bn24) (a : Nat) : Option Half := if a = 0 then none else halfField u (a - 1)

/-- The single-byte field at an address, as it stands; 0 where the window holds no field (R194, R208, R209). -/
def singleByte (u : Bn24) (a : Nat) : Byte :=
  if a = 0x00 then 0x24
  else if a = 0x01 then u.loader.run.code
  else if a = 0x02 then u.clock.lock.code
  else if a = 0x03 then BitVec.ofNat 8 u.clock.reference
  else if a = 0x04 then u.port.state.code
  else if a = 0x05 then u.arbiter.slot.code
  else if a = 0x06 then BitVec.ofNat 8 (occupancy u)
  else if a = 0x07 then u.loader.siteCode.extractLsb' 8 8
  else if a = 0x08 then u.loader.siteCode.extractLsb' 0 8
  else if a = 0x0E then u.maint.command
  else if a = 0x11 then u.maint.status.code
  else if 0x60 ≤ a ∧ a ≤ 0xBF ∧ a % 4 = 2 then
    match viewEntry u ((a - 0x60) / 4) with
    | some e => e.key.trip
    | none => 0
  else if 0x60 ≤ a ∧ a ≤ 0xBF ∧ a % 4 = 3 then
    match viewEntry u ((a - 0x60) / 4) with
    | some e => combinedByte e
    | none => 0
  else 0

/-- The first byte of a two-byte field: the one at the lower address (R195, R202). -/
def firstByte (h : Half) : Byte := h.extractLsb' 8 8

/-- The second byte of a two-byte field (R195, R202). -/
def secondByte (h : Half) : Byte := h.extractLsb' 0 8

/-! ### Transfers (R194) -/

/-- The port's own 7-bit address (R194). -/
def ownAddress (m : Maintenance) : BitVec 7 := 0x38 + m.madr.zeroExtend 7

/-- A transfer ends: an incomplete CLEAR FLAGS is dropped and REFUSED, a half-written enables value is dropped (R198,
R200). -/
def endTransfer (m : Maintenance) : Maintenance :=
  { m with
    transfer := .idle, enablesFirst := none, maskWait := .none
    status := if m.maskWait = .none then m.status else .refused }

/-- The transfer that an address byte begins: one that the port ignores at every other address (R194). -/
def startedTransfer (m : Maintenance) (address : BitVec 7) (direction : BusDirection) : Transfer :=
  if address = ownAddress m then
    match direction with
    | .write => .writing false
    | .read => .reading
  else .foreign

/-- MAINT_TRANSFER_START (R194): a repeated start ends the transfer before it. DESIGN CHOICE (assumption 26): a start while RSTN
is low is not kept, and a hard reset forgets the transfer before it. -/
def execMaintTransferStart (address : BitVec 7) (direction : BusDirection) (s : State) :
    Host.Outcome State Fault Refusal :=
  unlessReset (setMaint fun m => { endTransfer m with transfer := startedTransfer m address direction }) s

/-- MAINT_TRANSFER_END (R194). -/
def execMaintTransferEnd (s : State) : Host.Outcome State Fault Refusal := unlessReset (setMaint endTransfer) s

/-- The answer that a byte on the maintenance bus gets (R194). -/
inductive BusAnswer where
  | acknowledge
  | noAcknowledge
deriving DecidableEq, Repr

/-- The command is a byte written on the maintenance bus after the address byte of a transfer (R194). -/
def isWrittenByte : Instr → Bool
  | .internalAddressWrite _ | .enablesFirstByteWrite _ | .attentionEnablesWrite _ | .reload _ | .clearCounters
  | .clearFlagsPending _ | .clearFlags _ | .commandUnknown _ | .maintWriteIgnored _ => true
  | _ => false

/-- The port's answer to a data byte written in a transfer: every byte written to it is acknowledged, whatever its address and its
effect, and of another's transfer none (R194). With no transfer open the byte is of a whole access (assumption 10); in a read
transfer no byte is written (assumption 12). -/
def writtenByteAnswer : Transfer → Option BusAnswer
  | .idle => some .acknowledge
  | .foreign => some .noAcknowledge
  | .writing _ => some .acknowledge
  | .reading => none

/-- What the port answers to the byte that a command brings on the maintenance bus, in the state in which the command comes: its own
address in either direction and every byte written to it are acknowledged, and while RSTN is low nothing is (R194). None where
the command brings no byte that the port could answer: a byte that the port sends is answered by its reader. -/
def portAnswer (u : Bn24) (c : Instr) : Option BusAnswer :=
  match c with
  | .maintTransferStart address _ =>
    some (if address = ownAddress u.maint ∧ u.resetHeld = false then .acknowledge else .noAcknowledge)
  | _ =>
    if isWrittenByte c then (if u.resetHeld then some .noAcknowledge else writtenByteAnswer u.maint.transfer) else none

/-- INTERNAL_ADDRESS_WRITE (R194): the first data byte of a write transfer; with no transfer open, of a whole one
(assumption 10). The bytes of a transfer of another address are ignored. -/
def execInternalAddressWrite (address : Byte) (s : State) : Host.Outcome State Fault Refusal :=
  unlessReset (setMaint fun m =>
    match m.transfer with
    | .writing false => { m with transfer := .writing true, address := address }
    | .idle => { m with address := address }
    | .foreign => m
    | .writing true => m
    | .reading => m) s

/-- A further byte written lands at this address: the internal address stands there in a write transfer, or no transfer is
open and the command is a whole access of its own (assumption 10). -/
def landsAt (address : Byte) (m : Maintenance) : Bool :=
  match m.transfer with
  | .idle => true
  | .foreign => false
  | .writing true => decide (m.address = address)
  | .writing false => false
  | .reading => false

/-- The internal address after a byte at an address: one further, 255 being followed by 0 (R194). -/
def afterByte (address : Byte) (m : Maintenance) : Maintenance := { m with address := address + 1 }

/-- A command whose access goes on after this byte leaves a write transfer open (assumption 10). -/
def keepOpen (m : Maintenance) : Maintenance :=
  match m.transfer with
  | .idle => { m with transfer := .writing true }
  | .foreign => { m with transfer := .foreign }
  | .writing b => { m with transfer := .writing b }
  | .reading => { m with transfer := .reading }

/-! ### The attention enables (R200) -/

/-- ENABLES_FIRST_BYTE_WRITE (R200): the byte is held without effect. -/
def execEnablesFirstByteWrite (first : Byte) (s : State) : Host.Outcome State Fault Refusal :=
  unlessReset (setMaint fun m =>
    if landsAt 0x0C m then { keepOpen (afterByte 0x0C m) with enablesFirst := some first } else m) s

/-- ATTENTION_ENABLES_WRITE (R200): both bytes at once, if the first was written in the same transfer. -/
def execAttentionEnablesWrite (second : Byte) (s : State) : Host.Outcome State Fault Refusal :=
  unlessReset (setMaint fun m =>
    if landsAt 0x0D m then
      match m.enablesFirst with
      | some first => { afterByte 0x0D m with enables := first ++ second, enablesFirst := none }
      | none => afterByte 0x0D m
    else m) s

/-! ### Commands (section 10.2) -/

/-- A command code at the command byte, with the status that its outcome gives (R196). -/
def takeCommand (code : Byte) (status : CommandStatus) (m : Maintenance) : Maintenance :=
  { afterByte 0x0E m with command := code, status := status, maskWait := .none }

/-- RELOAD (R192, R196): refused with BUSY while LOADING. -/
def execReload (esdaPulses : Nat) (s : State) : Host.Outcome State Fault Refusal :=
  unlessReset (fun u =>
    if landsAt 0x0E u.maint then
      if u.loader.run = .loading then setMaint (takeCommand 0x01 .busy) u
      else doReload esdaPulses (setMaint (takeCommand 0x01 .done) u)
    else u) s

/-- CLEAR_COUNTERS (R197). -/
def execClearCounters (s : State) : Host.Outcome State Fault Refusal :=
  unlessReset (setMaint fun m =>
    if landsAt 0x0E m then { takeCommand 0x02 .done m with counters := Vector.replicate 27 0 } else m) s

/-- COMMAND_UNKNOWN (R196). -/
def execCommandUnknown (code : Byte) (s : State) : Host.Outcome State Fault Refusal :=
  unlessReset (setMaint fun m =>
    if landsAt 0x0E m && !(decide (code = 0x01) || decide (code = 0x02) || decide (code = 0x03)) then
      takeCommand code .refused m
    else m) s

/-- CLEAR_FLAGS_PENDING (R196, R198): the code, or the first mask byte after it; a mask byte without its command is
ignored. -/
def execClearFlagsPending (byte : PendingByte) (s : State) : Host.Outcome State Fault Refusal :=
  unlessReset (setMaint fun m =>
    match byte with
    | .code =>
      if landsAt 0x0E m then { keepOpen (takeCommand 0x03 m.status m) with maskWait := .first } else m
    | .mask first =>
      if landsAt 0x0F m then
        match m.maskWait with
        | .first => { afterByte 0x0F m with maskWait := .second first }
        | .none => afterByte 0x0F m
        | .second _ => afterByte 0x0F m
      else m) s

/-- CLEAR_FLAGS (R198): each flag whose mask bit is set is cleared; without the command and its first mask byte in the same
transfer the byte is ignored. -/
def execClearFlags (second : Byte) (s : State) : Host.Outcome State Fault Refusal :=
  unlessReset (setMaint fun m =>
    if landsAt 0x10 m then
      match m.maskWait with
      | .second first =>
        { afterByte 0x10 m with flags := m.flags &&& ~~~(first ++ second), status := .done, maskWait := .none }
      | .none => afterByte 0x10 m
      | .first => afterByte 0x10 m
    else m) s

/-- A byte written here has a behaviour of its own (R194, R196, R198, R200). -/
def writeHasEffect (m : Maintenance) : Bool :=
  decide (m.address = 0x0C) || (decide (m.address = 0x0D) && m.enablesFirst.isSome) || decide (m.address = 0x0E)
    || (decide (m.address = 0x0F) && decide (m.maskWait = .first))
    || (decide (m.address = 0x10) && decide (m.maskWait ≠ .none))

/-- MAINT_WRITE_IGNORED (R194): acknowledged and ignored, and the internal address advances. -/
def execMaintWriteIgnored (_value : Byte) (s : State) : Host.Outcome State Fault Refusal :=
  unlessReset (setMaint fun m =>
    if landsAt m.address m && !writeHasEffect m then afterByte m.address m else m) s

/-! ### Reads (R194, R195) -/

/-- A byte can be read: a read transfer is open, or no transfer is and the command is a whole access (assumption 10). -/
def canRead (m : Maintenance) : Bool :=
  match m.transfer with
  | .idle => true
  | .foreign => false
  | .reading => true
  | .writing _ => false

/-- A byte is put on MSDA and the internal address advances (R194). -/
def putByte (b : Byte) (m : Maintenance) : Maintenance := { afterByte m.address m with readData := some b }

/-- A byte that is no second byte is read: a first byte through the latch, a one-byte field live (R195, assumption 9). -/
def readFirst (u : Bn24) : Bn24 :=
  let a := u.maint.address.toNat
  match halfField u a with
  | some h =>
    setMaint (fun m => { putByte (firstByte h) m with latch := some { field := m.address, value := h } }) u
  | none => setMaint (putByte (singleByte u a)) u

/-- READ_LATCH_FIRST_BYTE (R195). -/
def execReadLatchFirstByte (s : State) : Host.Outcome State Fault Refusal :=
  unlessReset (fun u =>
    if canRead u.maint && (secondField u u.maint.address.toNat).isNone then readFirst u else u) s

/-- The second byte of a field: from the latch, which is emptied, if it holds the field; as it stands otherwise (R195). -/
def readSecond (h : Half) (u : Bn24) : Bn24 :=
  match u.maint.latch with
  | some l =>
    if l.field = u.maint.address - 1 then setMaint (fun m => { putByte (secondByte l.value) m with latch := none }) u
    else setMaint (putByte (secondByte h)) u
  | none => setMaint (putByte (secondByte h)) u

/-- READ_LATCH_SECOND_BYTE (R195). -/
def execReadLatchSecondByte (s : State) : Host.Outcome State Fault Refusal :=
  unlessReset (fun u =>
    if canRead u.maint then
      match secondField u u.maint.address.toNat with
      | some h => readSecond h u
      | none => u
    else u) s

end Sys2Proof.Machine
end

