-- ==== Sys2Proof/Machine/Idle.lean ====
section
/-! DEFINITION. What the unit does by itself while no command waits from outside (assumption 2): it takes the request at the
front of a queue of its own, else an event of a timer that is due, else local time advances by one ds. -/

namespace Sys2Proof.Machine

/-- The command by which the table takes the request at its front (R6). -/
def tableCommand (u : Bn24) : Option Instr :=
  match u.table.requests with
  | [] => none
  | .detection :: _ =>
    match turnOfInbox u with
    | some (.checkIn _ _ _ _ _ _) => some .checkIn
    | some (.checkOut _ _ _ _) => some .checkOut
    | some (.cancel _) => some .cancel
    | none => none
  | .forecast _ :: _ => some .forecastRequest
  | .invalidation _ :: _ => some .invalidationRequest
  | .evaluation _ :: _ => some .evaluation
  | .silence :: _ => some .silenceRequest

/-- The command by which the handler takes the table's request at the front (R143). -/
def handlerCommand (u : Bn24) : Option Instr :=
  match u.handler.requests with
  | [] => none
  | .passage _ :: _ => some .passageRequest
  | .withdraw _ :: _ => some .withdrawRequest

/-- The command by which the handler takes the port's frame at the front (R143). -/
def frameCommand (u : Bn24) : Option Instr :=
  match u.handler.frames with
  | [] => none
  | .passage _ :: _ => some .passageReceived
  | .withdraw _ _ :: _ => some .withdrawReceived

/-- A command if a test holds. -/
def commandIf (b : Bool) (c : Instr) : Option Instr := if b then some c else none

/-- The command of a queue of the unit's own that is not empty. -/
def queuedCommand (u : Bn24) : Option Instr :=
  tableCommand u <|> handlerCommand u <|> frameCommand u
    <|> commandIf (!u.clock.beacons.isEmpty) .beaconReceived
    <|> commandIf (!u.arbiter.joins.isEmpty) .joinRequest

/-- The lowest slot whose entry meets a test. -/
def slotWhere (u : Bn24) (p : Entry → Bool) : Option SlotIx :=
  (List.finRange 24).find? fun i =>
    match entryIn u i with
    | some e => p e
    | none => false

/-- The moment is the first after the holdover limit (R173). -/
def atLimit (u : Bn24) : Bool :=
  match u.clock.holdStart with
  | some t => decide (age u.localTime t = ((paramsOf u).holdoverLimit : Int) + 1)
  | none => false

/-- The command of a timer that is due; a message on a line that stays idle comes first (R96, R106). -/
def timerCommand (u : Bn24) : Option Instr :=
  commandIf (detectionGapDue u) .detGapAbandon
    <|> commandIf (linkGapDue u) .linkGapAbandon
    <|> commandIf (replyWaitDue u) .replyWaitExpiry
    <|> commandIf (deadlinePassed u) .grantDeadline
    <|> commandIf (silenceDue u) .controllerSilence
    <|> (slotWhere u (windowExpired u)).map .entryExpiry
    <|> (slotWhere u (untimedExpired u)).map .untimedExpiry
    <|> commandIf (u.table.recent.any (lapsed u.localTime)) .recentDepartureLapse
    <|> commandIf (beaconDue u) .beaconTimer
    <|> commandIf (acquisitionOver u) .acquisitionWaitEnd
    <|> commandIf (referenceIsStale u) .referenceStale
    <|> commandIf (holdoverOver u && atLimit u) .holdoverLimit
    <|> commandIf (holdoverOver u) .lowerRecordStale

/-- The command that the unit runs by itself; none while the hard reset is in force. -/
def ownCommand (u : Bn24) : Option Instr :=
  if u.resetHeld then none else queuedCommand u <|> timerCommand u

/-- Local time advances by one ds (R159); it stands at 0 while the hard reset is in force. -/
def tick (u : Bn24) : Bn24 := if u.resetHeld then u else { u with localTime := u.localTime + 1 }

end Sys2Proof.Machine
end

