-- ==== Sys2Proof/Machine/Dispatch.lean ====
section
/-! DEFINITION. The meaning of every command: one arm for each constructor of Instr. -/

namespace Sys2Proof.Machine

def exec (i : Instr) (s : State) : Host.Outcome State Fault Refusal :=
  match i with
  | .hardReset => Sys2Proof.Machine.execHardReset s
  | .resetRelease madr esdaPulses => Sys2Proof.Machine.execResetRelease madr esdaPulses s
  | .loadFault => Sys2Proof.Machine.execLoadFault s
  | .esclHoldTimeout => Sys2Proof.Machine.execEsclHoldTimeout s
  | .imageMarkRead mark => Sys2Proof.Machine.execImageMarkRead mark s
  | .identityBlockRead station rateCode site0 site1 => Sys2Proof.Machine.execIdentityBlockRead station rateCode site0 site1 s
  | .parameterBlockRead mark block => Sys2Proof.Machine.execParameterBlockRead mark block s
  | .tableMarkRead mark count => Sys2Proof.Machine.execTableMarkRead mark count s
  | .tableRecordRead type body => Sys2Proof.Machine.execTableRecordRead type body s
  | .maintTransferStart address direction => Sys2Proof.Machine.execMaintTransferStart address direction s
  | .maintTransferEnd => Sys2Proof.Machine.execMaintTransferEnd s
  | .internalAddressWrite address => Sys2Proof.Machine.execInternalAddressWrite address s
  | .attentionEnablesWrite second => Sys2Proof.Machine.execAttentionEnablesWrite second s
  | .reload esdaPulses => Sys2Proof.Machine.execReload esdaPulses s
  | .clearCounters => Sys2Proof.Machine.execClearCounters s
  | .clearFlags second => Sys2Proof.Machine.execClearFlags second s
  | .commandUnknown code => Sys2Proof.Machine.execCommandUnknown code s
  | .maintWriteIgnored value => Sys2Proof.Machine.execMaintWriteIgnored value s
  | .readLatchFirstByte => Sys2Proof.Machine.execReadLatchFirstByte s
  | .readLatchSecondByte => Sys2Proof.Machine.execReadLatchSecondByte s
  | .detMessageReceived payload check => Sys2Proof.Machine.execDetMessageReceived payload check s
  | .detLengthDrop length => Sys2Proof.Machine.execDetLengthDrop length s
  | .detGapAbandon => Sys2Proof.Machine.execDetGapAbandon s
  | .detCharacterError => Sys2Proof.Machine.execDetCharacterError s
  | .checkIn => Sys2Proof.Machine.execCheckIn s
  | .checkOut => Sys2Proof.Machine.execCheckOut s
  | .cancel => Sys2Proof.Machine.execCancel s
  | .forecastRequest => Sys2Proof.Machine.execForecastRequest s
  | .invalidationRequest => Sys2Proof.Machine.execInvalidationRequest s
  | .evaluation => Sys2Proof.Machine.execEvaluation s
  | .silenceRequest => Sys2Proof.Machine.execSilenceRequest s
  | .entryExpiry slot => Sys2Proof.Machine.execEntryExpiry slot s
  | .untimedExpiry slot => Sys2Proof.Machine.execUntimedExpiry slot s
  | .recentDepartureLapse => Sys2Proof.Machine.execRecentDepartureLapse s
  | .joinRequest => Sys2Proof.Machine.execJoinRequest s
  | .replyWaitExpiry => Sys2Proof.Machine.execReplyWaitExpiry s
  | .grantDeadline => Sys2Proof.Machine.execGrantDeadline s
  | .controllerMessageReceived payload check => Sys2Proof.Machine.execControllerMessageReceived payload check s
  | .linkLengthDrop length => Sys2Proof.Machine.execLinkLengthDrop length s
  | .linkGapAbandon => Sys2Proof.Machine.execLinkGapAbandon s
  | .linkCharacterError => Sys2Proof.Machine.execLinkCharacterError s
  | .controllerSilence => Sys2Proof.Machine.execControllerSilence s
  | .controllerMessageSent => Sys2Proof.Machine.execControllerMessageSent s
  | .quietWaitEnd report => Sys2Proof.Machine.execQuietWaitEnd report s
  | .attemptStart report => Sys2Proof.Machine.execAttemptStart report s
  | .startMarkDetected => Sys2Proof.Machine.execStartMarkDetected s
  | .frameReceived header payload check => Sys2Proof.Machine.execFrameReceived header payload check s
  | .frameMalformed => Sys2Proof.Machine.execFrameMalformed s
  | .arbitrationLoss => Sys2Proof.Machine.execArbitrationLoss s
  | .arbitrationWon => Sys2Proof.Machine.execArbitrationWon s
  | .lineFault => Sys2Proof.Machine.execLineFault s
  | .sendComplete => Sys2Proof.Machine.execSendComplete s
  | .passageRequest => Sys2Proof.Machine.execPassageRequest s
  | .withdrawRequest => Sys2Proof.Machine.execWithdrawRequest s
  | .passageReceived => Sys2Proof.Machine.execPassageReceived s
  | .withdrawReceived => Sys2Proof.Machine.execWithdrawReceived s
  | .beaconReceived => Sys2Proof.Machine.execBeaconReceived s
  | .beaconTimer => Sys2Proof.Machine.execBeaconTimer s
  | .acquisitionWaitEnd => Sys2Proof.Machine.execAcquisitionWaitEnd s
  | .referenceStale => Sys2Proof.Machine.execReferenceStale s
  | .holdoverLimit => Sys2Proof.Machine.execHoldoverLimit s
  | .lowerRecordStale => Sys2Proof.Machine.execLowerRecordStale s
  | .detStartByte => Sys2Proof.Machine.execDetStartByte s
  | .linkStartByte => Sys2Proof.Machine.execLinkStartByte s
  | .pulseNotFrame => Sys2Proof.Machine.execPulseNotFrame s
  | .clearFlagsPending byte => Sys2Proof.Machine.execClearFlagsPending byte s
  | .enablesFirstByteWrite first => Sys2Proof.Machine.execEnablesFirstByteWrite first s

end Sys2Proof.Machine
end

