-- ==== Sys2Proof/Machine/Step.lean ====
section
/-! DEFINITION. One step of the machine: the command at the front of the queue, or what the unit does by itself. -/

namespace Sys2Proof.Machine

/-- On an empty queue the unit runs a command of its own, or a ds passes (assumption 2). -/
def idle (s : State) : Host.Outcome State Fault Refusal :=
  match ownCommand s.unit with
  | some c => exec c s
  | none => .next { s with unit := tick s.unit }

/-- One step: the command at the front of the queue, run with the queue's rest; on an empty queue, `idle`. -/
def step (s : State) : Host.Outcome State Fault Refusal :=
  match s.pending with
  | c :: rest => exec c { s with pending := rest }
  | [] => idle s

/-- The command that a word spells, put at the front of the queue; no row of the table gives bits, so no word spells
one (assumption 3). -/
def State.withFetchWord (s : State) (nbits w : Nat) : State :=
  match decodeTableWord nbits w with
  | some c => { s with pending := c :: s.pending }
  | none => s

end Sys2Proof.Machine
end

