-- ==== Sys2Proof/Safety.lean ====
section
/-! DEFINITION. What a sound state of the BN24 is: the invariants that the manual's rules promise of every state of a run. Each
is a proposition about the unit. -/

namespace Sys2Proof.Machine

/-! ### Steps -/

/-- The machine can go from one state to the other in one step. -/
def Steps (s t : State) : Prop := step s = .next t

/-- No hard reset is in force, so commands have their effect (R191). -/
abbrev Active (s : State) : Prop := s.unit.resetHeld = false

/-- The unit is out of reset and its run state is RUNNING (R182). -/
abbrev Running (s : State) : Prop := Active s ∧ s.unit.loader.run = .running

/-- While a hard reset is in force the unit is in its hard-reset state (R191). -/
abbrev HeldOk (u : Bn24) : Prop := u.resetHeld = true → u = Bn24.reset

/-! ### The maintenance block -/

/-- Flag bits 10 to 15 carry no flag and read 0 (R208). -/
abbrev FlagBitsOk (u : Bn24) : Prop := u.maint.flags &&& 0xFC00 = 0

/-- The next request id is never 0 (R77), and messages wait for the transmitter only behind one being sent (R99). -/
abbrev LinkOk (u : Bn24) : Prop :=
  u.arbiter.nextId ≠ 0 ∧ (u.controller.sending = none → u.controller.waiting = [])

/-- The messages that the controller link still has to send, in their order (R99). -/
def linkMessages (u : Bn24) : List LinkMessage := u.controller.sending.toList ++ u.controller.waiting

/-- A byte written to the maintenance port lands at this address: in a write transfer whose internal address stands there, or
as a whole access with no transfer open (assumption 10). -/
abbrev WritesAt (s : State) (address : Byte) : Prop :=
  (s.unit.maint.transfer = .writing true ∧ s.unit.maint.address = address) ∨ s.unit.maint.transfer = .idle

/-- The length, kind, body and check bytes of a short message sum to 0 modulo 256 (R204). -/
abbrev SumsToZero (payload : List Byte) (check : Byte) : Prop :=
  (payload.length + (payload.map BitVec.toNat).sum + check.toNat) % 256 = 0

/-! ### Receivers and loads -/

/-- A receiver that is collecting a message holds no byte before its length is known, and then no more than the length says,
which lies in 1 to 16 (R104, R105). -/
abbrev FramingOk (f : Framing) : Prop :=
  match f with
  | .hunting => True
  | .collecting m =>
    match m.length with
    | none => m.bytes = []
    | some n => 1 ≤ n.toNat ∧ n.toNat ≤ 16 ∧ m.bytes.length ≤ n.toNat

/-- What a receiver makes of each byte, of each error and of a gap (R96, R103 to R106), for a reading of its framing state, a way
to set it, its counter, and its commands. A gap counts as passed once a whole ds lies between two bytes (assumption 15). -/
abbrev FramesBytes (framing : Bn24 → Framing) (set : Framing → Bn24 → Bn24) (bad : Counter) (start gap error : Instr)
    (lengthDrop : Byte → Instr) (received : List Byte → Option Byte → Instr) : Prop :=
  ∀ (s : State) (b : Byte) (m : Collected), Active s →
    let now := s.unit.localTime
    let holds := fun (c : Instr) (f : Framing) => exec c s = .next { s with unit := set f s.unit }
    let drops := fun c : Instr => exec c s = .next { s with unit := count bad (set .hunting s.unit) }
    (s.unit.loader.run = .running →
      (framing s.unit = .hunting →
        holds start (.collecting { length := none, bytes := [], lastEnd := now })
          ∧ holds (received [0xD2] none) (.collecting { length := none, bytes := [], lastEnd := now })
          ∧ (b ≠ 0xD2 → exec (received [b] none) s = .next s)
          ∧ exec gap s = .next s ∧ exec error s = .next s ∧ exec (lengthDrop b) s = .next s)
      ∧ (framing s.unit = .collecting m →
          drops gap ∧ drops error ∧ exec start s = exec (received [0xD2] none) s
            ∧ (m.length = none → b.toNat = 0 ∨ 16 < b.toNat → exec (lengthDrop b) s = exec (received [b] none) s)
            ∧ (m.length ≠ none ∨ (1 ≤ b.toNat ∧ b.toNat ≤ 16) → exec (lengthDrop b) s = .next s)
            ∧ (2 ≤ age now m.lastEnd →
                exec (received [b] none) s =
                  exec (received [b] none) { s with unit := count bad (set .hunting s.unit) })
            ∧ (age now m.lastEnd < 2 →
                (m.length = none → b.toNat = 0 ∨ 16 < b.toNat → drops (received [b] none))
                ∧ (m.length = none → 1 ≤ b.toNat → b.toNat ≤ 16 →
                    holds (received [b] none) (.collecting { length := some b, bytes := m.bytes, lastEnd := now }))
                ∧ ∀ n : Byte, m.length = some n →
                    (m.bytes.length < n.toNat →
                      holds (received [b] none) (.collecting { length := some n, bytes := m.bytes ++ [b], lastEnd := now }))
                    ∧ (n.toNat ≤ m.bytes.length →
                        exec (received [b] none) s = exec (received m.bytes (some b)) s)))
      ∧ (∀ (bytes : List Byte) (t : State), exec (received [b] none) s = .next t →
          exec (received (b :: bytes) none) s = exec (received bytes none) t))
    ∧ (s.unit.loader.run ≠ .running → ∀ (bytes : List Byte) (check : Option Byte),
        ∀ c ∈ [start, gap, error, lengthDrop b, received bytes check], exec c s = .next s)

/-- A delivered frame that the handler refuses with FORECAST_DISCARDED counted: a PASSAGE addressed here of a vehicle number that
no bus has, or from another station than the upstream one of its direction (R149, R150). -/
def refusedHere (u : Bn24) : ReceivedFrame → Bool
  | .passage p =>
    decide (p.next = u.loader.inForce.station)
      && (decide (p.key.vehicle = 0) || decide (p.key.vehicle = 0xFFFF)
        || (match linkRecord u p.direction with
            | some l => decide (l.upstream ≠ p.sender)
            | none => true))
  | .withdraw _ _ => false

/-- The unit as a load ends in RUNNING with nothing saved, a configuration in force and flags added (R190): what still waited for
the handler is handled, each frame refused there being counted (R158, assumption 14); the receivers hunt, the silence and the
beacon timer start, the port is in QUIET_WAIT with fresh timing, and the lock state is ACQUIRING. That the working copy and what
a RELOAD noted are then set back is the model's choice (assumption 23). -/
def startedWith (w : Configuration) (flags : Half) (u : Bn24) : Bn24 :=
  { u with
    loader := { u.loader with run := .running, phase := .none, inForce := w, working := .fresh }
    maint := { (countTimes .forecastDiscarded (u.handler.frames.filter (refusedHere u)).length u).maint with
      enables := w.params.enables, flags := u.maint.flags ||| flags }
    handler := { requests := [], frames := [] }
    detection := { u.detection with framing := .hunting }
    controller := { u.controller with framing := .hunting, silenceStart := some u.localTime }
    port := { u.port with state := .quietWait, lineTimer := some 0, recessive := 0, edgeSeen := false }
    clock :=
      { u.clock with
        beaconStart := some u.localTime, saved := none, noted := none, lock := .acquiring, reference := 0, fine := 0, miss := 0
        acqStart := some u.localTime, holdStart := none } }

/-- A load ends in RUNNING with a configuration in force, the attention enables its own, these flags of the load added to those
set (R184, R187, R188: flag bits 0 to 2), and every block started (R190). With nothing saved that is all; what a saved lock
becomes is R180's. -/
abbrev LoadEnds (s : State) (c : Instr) (w : Configuration) (flags : Half) : Prop :=
  (∃ t : State, exec c s = .next t ∧ t.unit.loader.run = .running ∧ t.unit.loader.phase = .none ∧ t.unit.loader.inForce = w
    ∧ t.unit.maint.enables = w.params.enables ∧ t.unit.maint.flags &&& 0x0007 = (s.unit.maint.flags ||| flags) &&& 0x0007
    ∧ t.unit.detection.framing = .hunting ∧ t.unit.controller.framing = .hunting
    ∧ t.unit.controller.silenceStart = some s.unit.localTime ∧ t.unit.clock.beaconStart = some s.unit.localTime
    ∧ t.unit.port.state = .quietWait ∧ t.unit.port.lineTimer = some 0 ∧ t.unit.port.recessive = 0
    ∧ t.unit.port.edgeSeen = false)
  ∧ (s.unit.clock.saved = none → s.unit.loader.run = .loading → s.unit.port.state = .off →
      exec c s = .next { s with unit := startedWith w flags s.unit })

/-- A counted record of `len` body bytes at a byte position leaves a working copy and adds flags, with `left` counted records
after it: the next is read, or the load ends with the last, or for want of a byte after 2047 (R187). -/
abbrev RecordThen (s : State) (c : Instr) (left pos len : Nat) (flags : Half) (w : Configuration) : Prop :=
  (0 < left → pos + len < 2047 →
    exec c s = .next { s with unit.loader.phase := .records left (pos + 1 + len), unit.loader.working := w
                              unit.maint.flags := s.unit.maint.flags ||| flags })
  ∧ (0 < left → pos + len = 2047 → LoadEnds s c w (flags ||| 0x0002))
  ∧ (left = 0 → pos + len ≤ 2047 → LoadEnds s c w flags)

/-! ### Collections -/

/-- The recent-departures list holds at most 8 records, no two of one key (R12). -/
abbrev RecentOk (u : Bn24) : Prop :=
  u.table.recent.length ≤ Config.recentCapacity ∧ (u.table.recent.map Departure.key).Nodup

/-- The recent-departures records that are live: of an age of 1,200 ds or less (R13). -/
def liveRecent (u : Bn24) : List Departure := u.table.recent.filter (fun d => decide (age u.localTime d.time ≤ 1200))

/-- The live records, one key's left out, with that key added now: at most 8, the oldest giving way (R12). -/
def recentWith (u : Bn24) (k : Key) : List Departure :=
  let others := (liveRecent u).filter (fun d => decide (d.key ≠ k))
  others.drop (others.length - 7) ++ [{ key := k, time := u.localTime }]

/-- The inbox holds at most 8 messages (R113). -/
abbrev InboxOk (u : Bn24) : Prop := u.detection.inbox.length ≤ Config.inboxCapacity

/-- The transmit queue holds at most 6 frames, at most one BEACON, in ascending order of urgency value (R134). -/
abbrev QueueOk (u : Bn24) : Prop :=
  u.port.queue.length ≤ Config.queueCapacity ∧ (u.port.queue.filter isBeacon).length ≤ 1
    ∧ u.port.queue.Pairwise (fun f g => f.urgency ≤ g.urgency) ∧ ∀ f ∈ u.port.queue, isBeacon f = true → f.urgency = 3

/-- The peer table holds at most 16 records, no two of one station (R161). -/
abbrev PeersOk (u : Bn24) : Prop :=
  u.clock.peers.length ≤ Config.peerCapacity ∧ (u.clock.peers.map Peer.station).Nodup

/-- No two entries hold one key (R2), and no key of the table is in the recent-departures list (R13). -/
abbrev KeysOk (u : Bn24) : Prop :=
  (∀ i j : SlotIx, ∀ e ∈ entryIn u i, ∀ f ∈ entryIn u j, e.key = f.key → i = j)
    ∧ ∀ i : SlotIx, ∀ e ∈ entryIn u i, inRecent u e.key = false

/-- A check-out on this approach is reported downstream, in this direction (R20). -/
abbrev ReportsOnward (u : Bn24) (a : ApproachIx) : Prop :=
  ∃ r ∈ approachRecord u a,
    (r.role = .outbound ∧ ∃ l ∈ linkRecord u .outbound, l.downstream ≠ 0)
      ∨ (r.role = .inbound ∧ ∃ l ∈ linkRecord u .inbound, l.downstream ≠ 0)

/-- The command takes a detection message from the front of the inbox in its turn (R6, R115): what waits behind it. -/
abbrev TakesDetection (s : State) (m : DetectionMessage) (requests : List TableRequest) (inbox : List DetectionMessage) :
    Prop :=
  Running s ∧ s.unit.table.requests = .detection :: requests ∧ s.unit.detection.inbox = m :: inbox

/-- A slot is the one whose entry holds a key (R2). -/
abbrev HoldsKey (u : Bn24) (k : Key) (i : SlotIx) (e : Entry) : Prop :=
  entryIn u i = some e ∧ e.key = k ∧ ∀ j : SlotIx, ∀ f ∈ entryIn u j, f.key = k → j = i

/-- No entry holds a key. -/
abbrev NoEntry (u : Bn24) (k : Key) : Prop := ∀ j : SlotIx, ∀ f ∈ entryIn u j, f.key ≠ k

/-- A slot is the lowest empty one (R7). -/
abbrev LowestEmpty (u : Bn24) (i : SlotIx) : Prop := entryIn u i = none ∧ ∀ j : SlotIx, j < i → entryIn u j ≠ none

/-- A slot holds a WAITING entry of a confirmation. -/
abbrev WaitingIn (u : Bn24) (c : Confirmation) (i : SlotIx) (e : Entry) : Prop :=
  entryIn u i = some e ∧ e.confirmation = c ∧ e.service = .waiting

/-- A slot is the victim of the forecast victim scan (R8): the first FORECAST entry in WAITING from the pointer on. -/
abbrev ForecastVictim (u : Bn24) (v : SlotIx) : Prop :=
  ∃ d : SlotIx, v = u.table.evict + d ∧ (∃ e, WaitingIn u .forecast v e)
    ∧ ∀ k : SlotIx, k < d → ∀ e, ¬ WaitingIn u .forecast (u.table.evict + k) e

/-- A member leaves a grant (R91, R93), its slot then holding `after`, with `asked` requested of the table at the end. A rider's
place closes up. The first rider succeeds a holder, GRANTED with the grant's decision. After the last member a CLEAR of the
grant's id is handed over, the slot is FREE, the join requests that wait are dropped, `evaluations` are requested, and a selection
follows. -/
abbrev MemberLeft (u : Bn24) (g : Grant) (r : EntryRef) (after : Option Entry) (evaluations asked : List TableRequest)
    (v : Bn24) : Prop :=
  let left := g.members.filter (fun m => decide (m ≠ r))
  let rest : Bn24 :=
    { u with arbiter.slot := .active { g with members := left }, table.requests := u.table.requests ++ asked
             table.slots := u.table.slots.set r.slot after }
  (left ≠ [] → g.members.head? ≠ some r → v = rest)
  ∧ (∀ (m : EntryRef) (f : Entry), left.head? = some m → g.members.head? = some r → entryIn u m.slot = some f →
      f.key = m.key →
      v = { rest with table.slots := rest.table.slots.set m.slot (some
              { f with service := .granted
                       decision := some { kind := g.kind, amount := g.amount, isPartial := g.isPartial } }) })
  ∧ (left = [] → LinkOk u →
      ∃ t : Bn24, v = selection t ∧ linkMessages t = linkMessages u ++ [.clear g.id]
        ∧ t.table = { u.table with slots := u.table.slots.set r.slot after
                                   requests := u.table.requests ++ evaluations ++ asked }
        ∧ t.arbiter = { u.arbiter with slot := .free, joins := [] }
        ∧ { t with table := u.table, arbiter := u.arbiter, controller.sending := none, controller.waiting := [] }
            = { u with controller.sending := none, controller.waiting := [] })

/-- The evaluations that the end of a grant requests: those of its approach's WAITING and ARMED entries (R57). -/
def grantEvaluations (g : Grant) (u : Bn24) : List TableRequest := evaluationsOf (fun f => decide (f.approach = g.approach)) u

/-- A command takes an updated member out of its grant: the entry, back in WAITING, takes its new fields and is evaluated (R17,
R23, R92). It is WAITING already as a grant that ends with it has its approach evaluated (assumption 22). -/
abbrev LeavesGrant (c : Instr) (s : State) (taken : Bn24) (g : Grant) (i : SlotIx) (old new : Entry) : Prop :=
  let r : EntryRef := { slot := i, key := old.key }
  let waiting : Bn24 :=
    { taken with table.slots := taken.table.slots.set i (some { old with service := .waiting, decision := none }) }
  ∃ v : Bn24, exec c s = .next { s with unit := v }
    ∧ MemberLeft taken g r (some { new with service := .waiting, decision := none }) (grantEvaluations g waiting)
        [.evaluation r] v

/-- An entry fits a grant, as a member or to become one (R68): it has a window and a grade of 1 or more and is on the grant's
approach; for EXTEND its window end plus the margin is not later than the service edge; for EARLY its window start lies before
the recorded green start and, but for the holder, not before the service edge (R92). -/
abbrev Fits (u : Bn24) (g : Grant) (holder : Prop) (e : Entry) : Prop :=
  ∃ w : Window, e.window = some w ∧ 1 ≤ e.grade ∧ e.approach = g.approach
    ∧ ((g.kind = .extend ∧ timeDiff (w.stop + ds u.loader.inForce.params.margin) g.edge ≤ 0)
        ∨ (g.kind = .early ∧ (holder ∨ timeDiff g.edge w.start ≤ 0) ∧ ∃ n ∈ g.greenStart, timeDiff w.start n < 0))

/-- The first member of a grant is its holder (R89). -/
abbrev HoldsGrant (g : Grant) (i : SlotIx) : Prop := ∃ m ∈ g.members.head?, m.slot = i

/-- An entry is held, the phase view of its approach being present (R61, R62). -/
abbrev HeldBack (u : Bn24) (e : Entry) (v : PhaseRecord) : Prop :=
  e.grade = 0 ∨ (∀ r ∈ approachRecord u e.approach, r.enabled = false) ∨ v.state = .dark ∨ v.inhibit = true
    ∨ u.controller.silent = true ∨ u.loader.run ≠ .running ∨ (e.confirmation = .forecast ∧ e.window = none)
    ∨ (e.confirmation = .forecast ∧ e.quality = some .fair) ∨ e.declined = some (classOf v.state)

/-- The evaluation of an entry would give a call of this kind and amount (R60, R62 to R64), whole or, for EARLY, partial. -/
abbrev WouldCall (u : Bn24) (e : Entry) (kind : CallKind) (amount : Nat) : Prop :=
  ∃ (v : PhaseRecord) (w : Window) (r : ApproachRecord),
    phaseOf u e.approach = some v ∧ e.window = some w ∧ approachRecord u e.approach = some r ∧ ¬ HeldBack u e v
    ∧ let green := u.localTime + ds (agedTime u.localTime v.received v.toChange)
      let next := u.localTime + ds (agedTime u.localTime v.received v.toNextGreen)
      let need := ((timeDiff w.stop green + u.loader.inForce.params.margin).toNat + 9) / 10 * 10
      let advance := ((-timeDiff w.start next).toNat + 9) / 10 * 10
      (kind = .extend ∧ v.state = .green ∧ 0 < timeDiff w.stop green ∧ need ≤ r.eMax ∧ amount = need)
      ∨ (kind = .early ∧ v.state ≠ .green ∧ timeDiff w.start next < 0
          ∧ ((advance ≤ r.tMax ∧ amount = advance) ∨ (r.tMax < advance ∧ 10 ≤ r.tMax ∧ amount = r.tMax)))

/-- The call of the offer stands for an updated entry: its evaluation would give the kind and the amount offered (R81). -/
abbrev CallStands (u : Bn24) (e : Entry) : Prop := ∃ o : Offer, u.arbiter.slot = .offered o ∧ WouldCall u e o.kind o.amount

/-- An offer whose entry has been given up (R80). -/
def abandoned (g : GrantSlot) : GrantSlot :=
  match g with
  | .offered o => .offered { o with entry := none }
  | .free => .free
  | .active a => .active a

/-! ### Entries and the grant -/

/-- The presence of an entry's fields (R3), their ranges, and that no entry of grade 0 or without a window is out of WAITING
(R70, R78). -/
abbrev EntryOk (e : Entry) : Prop :=
  (e.decision.isSome = true ↔ e.service = .armed ∨ e.service = .offered ∨ e.service = .granted)
    ∧ (e.confirmation = .confirmed → e.window.isSome = true)
    ∧ (e.quality.isSome = true ↔ e.confirmation = .forecast ∧ e.window.isSome = true)
    ∧ e.grade ≤ 15 ∧ e.chain ≤ 15
    ∧ (e.service ≠ .waiting → 1 ≤ e.grade ∧ e.window.isSome = true)

/-- A forecast request brings a grade and a chain in their ranges (R151). -/
abbrev RequestOk (r : TableRequest) : Prop :=
  match r with
  | .forecast f =>
    f.chain ≤ 15 ∧
      (match f.result with
       | .timed _ _ g => g ≤ 15
       | .untimed g => g ≤ 15
       | .stale => True)
  | .detection | .invalidation _ | .evaluation _ | .silence => True

/-- A delivered frame brings a chain in its range (R149). -/
abbrev FrameOk (f : ReceivedFrame) : Prop :=
  match f with
  | .passage p => p.chain ≤ 15
  | .withdraw _ _ => True

/-- Every entry, and what waits to make one, is as R3 says. -/
abbrev EntriesOk (u : Bn24) : Prop :=
  (∀ i : SlotIx, ∀ e ∈ entryIn u i, EntryOk e) ∧ (∀ r ∈ u.table.requests, RequestOk r) ∧ ∀ f ∈ u.handler.frames, FrameOk f

/-- The offered entry of a slot that is OFFERED and not abandoned: OFFERED, on the offer's approach (R79, R80). -/
abbrev OfferOk (u : Bn24) (o : Offer) : Prop :=
  ∀ r ∈ o.entry, ∃ e ∈ entryAt u r, e.service = .offered ∧ e.approach = o.approach

/-- The members of a grant: 1 to 4, each once, on the grant's approach, the first GRANTED and the others RIDING (R89). -/
abbrev GrantOk (u : Bn24) (g : Grant) : Prop :=
  1 ≤ g.members.length ∧ g.members.length ≤ Config.memberCapacity ∧ g.members.Nodup
    ∧ (∀ r ∈ g.members, ∃ e ∈ entryAt u r, e.approach = g.approach ∧
        e.service = (if g.members.head? = some r then .granted else .riding))

/-- The offer or the grant that a slot's entry belongs to, by its service state (R79, R89). -/
abbrev BelongsOk (u : Bn24) (i : SlotIx) (e : Entry) : Prop :=
  match e.service, u.arbiter.slot with
  | .waiting, _ => True
  | .armed, _ => True
  | .offered, .offered o => o.entry = some { slot := i, key := e.key }
  | .offered, .free => False
  | .offered, .active _ => False
  | .granted, .active g => { slot := i, key := e.key } ∈ g.members
  | .granted, .free => False
  | .granted, .offered _ => False
  | .riding, .active g => { slot := i, key := e.key } ∈ g.members
  | .riding, .free => False
  | .riding, .offered _ => False

/-- The grant slot and the service states of the entries agree (R4, R79, R89), and join requests wait only while a grant is
ACTIVE, so that none outlives its grant (R69, R71). -/
abbrev ArbiterOk (u : Bn24) : Prop :=
  (match u.arbiter.slot with
   | .free => True
   | .offered o => OfferOk u o
   | .active g => GrantOk u g)
    ∧ (∀ i : SlotIx, ∀ e ∈ entryIn u i, BelongsOk u i e)
    ∧ (u.arbiter.joins ≠ [] → ∃ g, u.arbiter.slot = .active g)

/-- Entries, grant slot and their agreement together. -/
abbrev GrantInvariant (u : Bn24) : Prop := HeldOk u ∧ EntriesOk u ∧ ArbiterOk u

/-! ### Run state and the Corridor Time Unit -/

/-- A beacon's advertised fields contradict one another (R162): a lock state of OFF or none, or a reference that its lock state
cannot have. -/
abbrev Inconsistent (b : ReceivedBeacon) : Prop :=
  b.lock = 0 ∨ 5 < b.lock.toNat ∨ 60 < b.reference ∨ ((b.lock = 1 ∨ b.lock = 5) ∧ b.reference ≠ 0)
    ∨ ((b.lock = 2 ∨ b.lock = 3 ∨ b.lock = 4) ∧ (b.reference = 0 ∨ b.station ≤ b.reference))

/-- The fields of an entry that only detection messages and corridor forecasts write (R4). -/
abbrev SameForecast (e f : Entry) : Prop :=
  e.key = f.key ∧ e.confirmation = f.confirmation ∧ e.approach = f.approach ∧ e.chain = f.chain ∧ e.grade = f.grade
    ∧ e.window = f.window ∧ e.quality = f.quality ∧ e.updated = f.updated

/-- A load is read only in LOADING (R182). -/
abbrev LoadOk (u : Bn24) : Prop := u.loader.phase ≠ .none → u.loader.run = .loading

/-- Outside RUNNING the working state is empty and the corridor blocks are OFF (R28, R116, R141, R180, R192). -/
abbrev QuietOk (u : Bn24) : Prop :=
  u.loader.run ≠ .running →
    u.table.slots = Vector.replicate 24 none ∧ u.table.recent = [] ∧ u.table.requests = [] ∧ u.arbiter.slot = .free
      ∧ u.arbiter.joins = [] ∧ u.detection.inbox = [] ∧ u.controller.phase = Vector.replicate 4 none
      ∧ u.controller.silent = false ∧ u.controller.silenceStart = none ∧ u.port.state = .off ∧ u.port.queue = []
      ∧ u.clock.lock = .off ∧ u.clock.beacons = []

/-- The quiet of a unit that is not RUNNING, with what keeps it. -/
abbrev QuietInvariant (u : Bn24) : Prop := HeldOk u ∧ LoadOk u ∧ QuietOk u

/-- The reference station of a lock state at a station: 0 in ACQUIRING and FREE; in COARSE, FINE and HOLDOVER a station lower
than the unit's own (R165). -/
abbrev ReferenceOk (lock : LockState) (reference own : Nat) : Prop :=
  match lock with
  | .off => True
  | .acquiring => reference = 0
  | .free => reference = 0
  | .coarse => 0 < reference ∧ reference < own
  | .fine => 0 < reference ∧ reference < own
  | .holdover => 0 < reference ∧ reference < own

/-- The reference station is as R165 says, that of the saved state for the noted station too (R180). -/
abbrev ClockInvariant (u : Bn24) : Prop :=
  HeldOk u ∧ LoadOk u ∧ (u.loader.run ≠ .running → u.clock.lock = .off)
    ∧ ReferenceOk u.clock.lock u.clock.reference u.loader.inForce.station
    ∧ (∀ v ∈ u.clock.saved, ∀ n ∈ u.clock.noted, ReferenceOk v.lock v.reference n.1)
    ∧ ∀ b ∈ u.clock.beacons, 0 < b.station

end Sys2Proof.Machine
end

