-- ==== Sys2Proof/Certificates/Slice0/Obligations.lean ====
section
/-! DEFINITION. The statements about the BN24 that are to be proved. In each, `s` is a state of the machine, and
`{ s with unit.x := v }` is that state with the one field changed and every other field, the queue of commands included,
as it was: a conclusion `exec c s = .next { s with … }` therefore states the command's whole effect. -/

open Sys2Proof Sys2Proof.Machine

/-! ### The machine -/

/-- A step runs the command at the front of the queue, with the queue's rest left waiting. On an empty queue the unit runs the
command of its own that is due; with none due, a ds passes: local time advances by 1 modulo 2^24 and nothing else changes, and
while the hard reset is in force nothing changes at all. The queue (assumption 1) and what a step on an empty queue is
(assumption 2) are the model's own. -/
def Obligations.StepRunsFrontCommand : Prop :=
  (∀ (c : Instr) (rest : List Instr) (u : Bn24),
      step { pending := c :: rest, unit := u } = exec c { pending := rest, unit := u })
  ∧ ∀ u : Bn24,
      (u.resetHeld = true → step { pending := [], unit := u } = .next { pending := [], unit := u })
      ∧ (∀ c : Instr, ownCommand u = some c → step { pending := [], unit := u } = exec c { pending := [], unit := u })
      ∧ (u.resetHeld = false → u.table.requests = [] → u.handler.requests = [] → u.handler.frames = [] →
          u.clock.beacons = [] → u.arbiter.joins = [] → timerCommand u = none →
          ∃ t : Time, t.toNat = (u.localTime.toNat + 1) % 16777216
            ∧ step { pending := [], unit := u } = .next { pending := [], unit := { u with localTime := t } })

/-- No command faults or is refused in any state, and none touches the queue of waiting commands. That a command whose
event cannot occur has no effect is the model's choice (assumptions 12 and 13). -/
def Obligations.EveryCommandAnswersNext : Prop :=
  (∀ (c : Instr) (s : State), ∃ u : Bn24, exec c s = .next { s with unit := u }) ∧ ∀ s : State, ∃ t : State, step s = .next t

/-- HARD_RESET (section 9.5): from every state, every collection is emptied, every counter zeroed, every flag cleared, and
every other piece of state is at the value that its chapter gives; the half-written pairs of the maintenance port, an open
transfer and what waits between blocks are gone. The values of the address pins before they are sampled, of the byte last read
and of the reset flag are the model's (assumption 7), and so are the empty place of the load's read and, whatever was on the bus,
the absence of a maintenance transfer (assumption 26). -/
def Obligations.HardResetSetsEveryBlock : Prop :=
  ∀ s : State, ∃ t : State,
    exec .hardReset s = .next t ∧ t.pending = s.pending ∧ t.unit.localTime = 0
      ∧ (∀ i : SlotIx, entryIn t.unit i = none) ∧ t.unit.table.evict = 0 ∧ t.unit.table.recent = []
      ∧ t.unit.table.requests = [] ∧ t.unit.arbiter = { slot := .free, nextId := 1, joins := [] }
      ∧ (∀ a : ApproachIx, phaseOf t.unit a = none) ∧ t.unit.controller.framing = .hunting
      ∧ t.unit.controller.silent = false ∧ t.unit.controller.silenceStart = none ∧ linkMessages t.unit = []
      ∧ t.unit.detection = { framing := .hunting, inbox := [] }
      ∧ t.unit.port = { state := .off, queue := [], attempt := none, decoding := none, lineTimer := none, recessive := 0
                        edgeSeen := false }
      ∧ t.unit.handler = { requests := [], frames := [] }
      ∧ t.unit.clock = { offset := 0, lock := .off, reference := 0, fine := 0, miss := 0, peers := [], acqStart := none
                         holdStart := none, beaconStart := none, saved := none, noted := none, beacons := [] }
      ∧ t.unit.loader.run = .loading ∧ t.unit.loader.phase = .none ∧ t.unit.loader.inForce = .fresh
      ∧ t.unit.loader.working = .fresh ∧ t.unit.loader.siteCode = 0
      ∧ (∀ c : Counter, counterOf c t.unit = 0) ∧ (∀ f : Flag, flagSet f t.unit = false)
      ∧ t.unit.maint.flags = 0 ∧ t.unit.maint.enables = 0 ∧ t.unit.maint.address = 0 ∧ t.unit.maint.transfer = .idle
      ∧ t.unit.maint.enablesFirst = none ∧ t.unit.maint.maskWait = .none ∧ t.unit.maint.latch = none
      ∧ t.unit.maint.command = 0 ∧ t.unit.maint.status = .idle ∧ t.unit.maint.madr = 0 ∧ t.unit.maint.readData = none
      ∧ t.unit.resetHeld = true ∧ attn t.unit = false

/-! ### The Configuration Loader -/

/-- RESET_RELEASE: RSTN rises, the address pins are sampled, and the first load begins; a memory that holds ESDA low past
the ninth pulse ends it with LOAD_FAULT. Out of reset the command's event cannot occur (assumption 12). LOAD_FAULT while the
memory is addressed, and ESCL_HOLD_TIMEOUT at any place of a load: the flag LOAD_FAULT is set, the working copy is discarded, and
the load ends in UNCONFIGURED with every other block as it was. A LOAD_FAULT once byte 0 is read, and either outside a load, has
no effect (assumption 12). That a discarded working copy is at once what a fresh one holds is the model's choice (assumption 23).
On the memory line stand at most nine pulses and then the bus address 0x50 with the write direction, both address bytes of byte
0, and the bus address with the read direction. Each command of the load reads the bytes that it brings (of a table mark that is
wrong the one byte, of a record its type byte and its body, none beyond byte 2047): each is acknowledged, but for the last one of
a command that ends the load, which is followed by a stop condition. -/
def Obligations.LoadsBeginAndFail : Prop :=
  (∀ (s : State) (madr : BitVec 2) (pulses : Nat),
      (s.unit = Bn24.reset → pulses ≤ 9 →
        exec (.resetRelease madr pulses) s =
          .next { s with unit.resetHeld := false, unit.maint.madr := madr, unit.loader.phase := .addressing })
      ∧ (s.unit = Bn24.reset → 9 < pulses →
          exec (.resetRelease madr pulses) s =
            .next { s with unit.resetHeld := false, unit.maint.madr := madr, unit.maint.flags := 0x0001,
                           unit.loader.run := .unconfigured })
      ∧ (s.unit.resetHeld = false → exec (.resetRelease madr pulses) s = .next s))
  ∧ (∀ (s : State) (c : Instr), Active s → c = .loadFault ∨ c = .esclHoldTimeout →
      (s.unit.loader.run = .loading → s.unit.loader.phase = .addressing ∨ (c = .esclHoldTimeout ∧ s.unit.loader.phase ≠ .none) →
        exec c s =
          .next { s with unit.maint.flags := s.unit.maint.flags ||| 0x0001, unit.loader.run := .unconfigured,
                         unit.loader.phase := .none, unit.loader.working := .fresh })
      ∧ (s.unit.loader.run ≠ .loading ∨ (c = .loadFault ∧ s.unit.loader.phase ≠ .addressing) → exec c s = .next s))
  ∧ (∀ pulses : Nat,
      openingSignals pulses =
        List.replicate (min pulses 9) .pulse ++
          (if pulses ≤ 9 then [.start, .send 0xA0, .send 0, .send 0, .start, .send 0xA1] else [.stop]))
  ∧ ∀ (s t : State) (c : Instr) (n : Nat), Active s → exec c s = .next t →
      (s.unit.loader.phase = .addressing ∧ n = 1 ∧ ∃ mark, c = .imageMarkRead mark)
        ∨ (s.unit.loader.phase = .identity ∧ n = 4 ∧ ∃ a b d e, c = .identityBlockRead a b d e)
        ∨ (s.unit.loader.phase = .parameters ∧ n = 19 ∧ ∃ mark block, c = .parameterBlockRead mark block)
        ∨ (s.unit.loader.phase = .tableMark ∧ ∃ mark count, c = .tableMarkRead mark count ∧ n = if mark = 0x6C then 2 else 1)
        ∨ (∃ left pos type body, s.unit.loader.phase = .records (left + 1) pos ∧ pos ≤ 2047 ∧ c = .tableRecordRead type body
            ∧ n = min (2048 - pos) (if type = 1 then 12 else if type = 2 then 7 else if type = 3 then 8 else if type = 4 then 5
                                    else 1)) →
      bytesRead s.unit.loader.phase c = n
        ∧ readAnswers n t.unit.loader.phase =
            if t.unit.loader.phase = .none then List.replicate (n - 1) .acknowledge ++ [.noAcknowledge, .stop]
            else List.replicate n .acknowledge

/-- IMAGE_MARK_READ and IDENTITY_BLOCK_READ: the first five bytes decide whether the unit can run (R185). That a discarded
working copy is at once what a fresh one holds is the model's choice (assumption 23). -/
def Obligations.FirstFiveBytesDecide : Prop :=
  ∀ (s : State) (mark station rate site0 site1 : Byte), Active s →
    (s.unit.loader.phase = .addressing →
      exec (.imageMarkRead mark) s =
        if mark = 0x6C then .next { s with unit.loader.phase := .identity }
        else .next { s with unit.loader.phase := .none, unit.loader.run := .unconfigured,
                            unit.loader.working := .fresh })
    ∧ (s.unit.loader.phase = .identity →
        exec (.identityBlockRead station rate site0 site1) s =
          if 1 ≤ station.toNat ∧ station.toNat ≤ 60 then
            .next { s with unit.loader.siteCode := site0 ++ site1, unit.loader.phase := .parameters,
                           unit.loader.working.station := station.toNat
                           unit.loader.working.rate :=
                            if rate.toNat = 0 then .r4800 else if rate.toNat = 1 then .r9600 else .r19200 }
          else
            .next { s with unit.loader.siteCode := site0 ++ site1, unit.loader.phase := .none,
                           unit.loader.run := .unconfigured, unit.loader.working := .fresh })

/-- PARAMETER_BLOCK_READ: with the mark, each parameter of bytes 6 to 23 enters the working copy clamped into its range;
without it the working copy keeps what it holds. The load goes on with byte 24 and no flag is set. TABLE_MARK_READ: with
the mark and a count the records follow from byte 26. Without the mark, or with a count of 0, the load ends in RUNNING:
what still waits for the handler from before the load is handled without reaching a queue or the table, each frame that is
refused being counted (R158, assumption 14), and, with nothing saved, every block starts as its chapter says. That the working
copy and what a RELOAD noted are then set back is the model's choice (assumption 23). -/
def Obligations.ParametersThenTheTableMark : Prop :=
  (∀ (s : State) (mark : Byte) (b : Vector Byte 18), Active s → s.unit.loader.phase = .parameters →
      exec (.parameterBlockRead mark b) s =
        if mark = 0x6C then
          .next { s with unit.loader.phase := .tableMark
                         unit.loader.working.params :=
                          { beaconInterval := max 10 (min 100 b[0].toNat)
                            referenceTimeout := max 30 (min 1000 (b[1] ++ b[2]).toNat)
                            holdoverLimit := max 100 (min 6000 (b[3] ++ b[4]).toNat)
                            sendBudget := max 5 (min 50 b[5].toNat)
                            staleLimit := max 100 (min 1200 (b[6] ++ b[7]).toNat)
                            untimedLife := max 300 (min 6000 (b[8] ++ b[9]).toNat)
                            margin := min 50 b[10].toNat, grace := min 100 b[11].toNat, ahead := min 120 b[12].toNat
                            chainLimit := min 15 b[13].toNat, lockEventMode := min 3 b[14].toNat
                            enables := b[15] ++ b[16] } }
        else .next { s with unit.loader.phase := .tableMark })
  ∧ (∀ (s : State) (mark count : Byte), Active s → s.unit.loader.phase = .tableMark →
      (mark = 0x6C → count ≠ 0 →
        exec (.tableMarkRead mark count) s = .next { s with unit.loader.phase := .records count.toNat 26 })
      ∧ (mark ≠ 0x6C ∨ count = 0 → s.unit.clock.saved = none → s.unit.loader.run = .loading → s.unit.port.state = .off →
          let refused := s.unit.handler.frames.filter (refusedHere s.unit)
          exec (.tableMarkRead mark count) s =
            .next { s with unit.loader.run := .running, unit.loader.phase := .none
                           unit.loader.inForce := s.unit.loader.working, unit.loader.working := .fresh
                           unit.maint := { (countTimes .forecastDiscarded refused.length s.unit).maint with
                            enables := s.unit.loader.working.params.enables }
                           unit.handler := { requests := [], frames := [] }
                           unit.detection.framing := .hunting, unit.controller.framing := .hunting
                           unit.controller.silenceStart := some s.unit.localTime
                           unit.port.state := .quietWait, unit.port.lineTimer := some 0, unit.port.recessive := 0
                           unit.port.edgeSeen := false
                           unit.clock.beaconStart := some s.unit.localTime, unit.clock.saved := none
                           unit.clock.noted := none, unit.clock.lock := .acquiring, unit.clock.reference := 0
                           unit.clock.fine := 0, unit.clock.miss := 0
                           unit.clock.acqStart := some s.unit.localTime, unit.clock.holdStart := none }))

/-- RUNNING resumes after a RELOAD, whichever command ends the load: with the station number and the line rate unchanged the
saved state is resumed, and what is due is applied at once; with either changed the unit restarts in ACQUIRING. The offset and
the peer table are kept. That what was saved is then forgotten is the model's choice (assumption 23). -/
def Obligations.RunningResumesTheSavedLock : Prop :=
  ∀ (s t : State) (c : Instr) (v : SavedLock) (n : Nat × LineRate),
    Active s → (∃ mark count, c = .tableMarkRead mark count) ∨ (∃ type body, c = .tableRecordRead type body) →
    s.unit.loader.run = .loading → exec c s = .next t → t.unit.loader.run = .running → s.unit.clock.saved = some v →
    s.unit.clock.noted = some n →
      let now := s.unit.localTime
      let new := t.unit.loader.inForce
      let live := fun p : Peer => age now p.last ≤ (new.params.referenceTimeout : Int)
      let leaves := decide (v.lock = .fine) && (decide (new.params.lockEventMode = 2) || decide (new.params.lockEventMode = 3))
      let flags := fun (lockEvent holdover : Bool) =>
        flagSet .lockEvent t.unit = (flagSet .lockEvent s.unit || lockEvent)
          ∧ flagSet .holdover t.unit = (flagSet .holdover s.unit || holdover)
      t.unit.clock.offset = s.unit.clock.offset ∧ t.unit.clock.peers = s.unit.clock.peers
        ∧ t.unit.clock.beaconStart = some now ∧ t.unit.clock.saved = none
        ∧ (n ≠ (new.station, new.rate) →
            t.unit.clock.lock = .acquiring ∧ t.unit.clock.reference = 0 ∧ t.unit.clock.fine = 0 ∧ t.unit.clock.miss = 0
              ∧ t.unit.clock.acqStart = some now ∧ flags leaves false)
        ∧ (n = (new.station, new.rate) → v.lock = .coarse ∨ v.lock = .fine →
            (∀ p ∈ s.unit.clock.peers, p.station = v.reference → live p) →
            t.unit.clock.lock = v.lock ∧ t.unit.clock.reference = v.reference ∧ t.unit.clock.fine = v.fine
              ∧ t.unit.clock.miss = v.miss ∧ flags false false)
        ∧ (n = (new.station, new.rate) → v.lock = .coarse ∨ v.lock = .fine → PeersOk s.unit →
            (∃ p ∈ s.unit.clock.peers, p.station = v.reference ∧ ¬ live p) →
            t.unit.clock.lock = .holdover ∧ t.unit.clock.reference = v.reference ∧ t.unit.clock.fine = 0
              ∧ t.unit.clock.miss = 0 ∧ t.unit.clock.holdStart = some now ∧ flags leaves true)
        ∧ (n = (new.station, new.rate) → v.lock = .acquiring →
            t.unit.clock.lock = .acquiring ∧ t.unit.clock.reference = 0 ∧ t.unit.clock.acqStart = some now)
        ∧ (n = (new.station, new.rate) → v.lock = .holdover →
            (∀ since, v.holdStart = some since → age now since ≤ (new.params.holdoverLimit : Int))
              ∨ (∃ p ∈ s.unit.clock.peers, p.station < new.station ∧ live p) →
            t.unit.clock.lock = .holdover ∧ t.unit.clock.reference = v.reference
              ∧ t.unit.clock.holdStart = v.holdStart)
        ∧ (n = (new.station, new.rate) → v.lock = .holdover →
            (∃ since, v.holdStart = some since ∧ (new.params.holdoverLimit : Int) < age now since) →
            (∀ p ∈ s.unit.clock.peers, p.station < new.station → ¬ live p) →
            t.unit.clock.lock = .free ∧ t.unit.clock.reference = 0)
        ∧ (n = (new.station, new.rate) → v.lock = .free →
            (∀ p ∈ s.unit.clock.peers, p.station < new.station → ¬ live p) →
            t.unit.clock.lock = .free ∧ t.unit.clock.reference = v.reference)
        ∧ (n = (new.station, new.rate) → v.lock = .free →
            (∃ p ∈ s.unit.clock.peers, p.station < new.station ∧ live p) →
            t.unit.clock.lock = .acquiring ∧ t.unit.clock.reference = 0 ∧ t.unit.clock.acqStart = some now)

/-- TABLE_RECORD_READ: a record of a known type whose naming fields lie in their sets is taken into the working copy under
its id, in place of one already there, with its quantities clamped. The load goes on with the next record, ends in RUNNING
after the last counted one, and ends there with LOAD_OVERFLOW where the next would lie beyond byte 2047 (that the overflow is
found then is read from the spec, assumption 19). A load that ends with nothing saved starts every block: the receivers hunt, the
silence and the beacon timer start, the port is in QUIET_WAIT, the lock state ACQUIRING; what waited for the handler is handled,
its refused frames counted (assumption 14), and the working copy and what a RELOAD noted are set back (assumption 23). -/
def Obligations.RecordsAreTakenClamped : Prop :=
  ∀ (s : State) (b : Vector Byte 11) (left pos : Nat) (a : ApproachIx),
    Active s → s.unit.loader.phase = .records (left + 1) pos →
    let w := s.unit.loader.working
    (∀ role : Role, b[0].toNat = a.val + 1 →
      (role = .cross ∧ b[1] &&& 0x7F = 0) ∨ (role = .outbound ∧ b[1] &&& 0x7F = 1) ∨ (role = .inbound ∧ b[1] &&& 0x7F = 2) →
      RecordThen s (.tableRecordRead 1 b) left pos 11 0
        { w with
          approaches := w.approaches.set a (some
            { role := role, nearSide := b[1].getLsbD 7, enabled := decide (b[2] ≠ 0)
              eMax := min 60 b[3].toNat * 10, tMax := min 60 b[4].toNat * 10
              vMin := max 20 (min 300 (b[5] ++ b[6]).toNat)
              vMax := max (max 20 (min 300 (b[5] ++ b[6]).toNat)) (min 300 (b[7] ++ b[8]).toNat)
              dwell := min 60 b[9].toNat * 10, spread := min 50 b[10].toNat }) })
    ∧ (∀ (p : PointIx) (kind : PointKind), b[0].toNat = p.val + 1 → b[1].toNat = a.val + 1 →
        (kind = .checkIn ∧ b[2] &&& 0x7F = 1) ∨ (kind = .checkOut ∧ b[2] &&& 0x7F = 2) →
        RecordThen s (.tableRecordRead 2 b) left pos 6 0
          { w with
            points := w.points.set p (some
              { approach := a, kind := kind, stopAhead := b[2].getLsbD 7
                distance := max 10 (min 3000 (b[3] ++ b[4]).toNat), nominal := 2 * b[5].toNat }) })
    ∧ (b[1].toNat = a.val + 1 → b[2].toNat ≤ 60 → b[3].toNat ≤ 60 →
        let link : LinkRecord :=
          { approach := a, upstream := b[2].toNat, downstream := b[3].toNat
            linkTime := max 10 (min 1200 (b[4] ++ b[5]).toNat) * 10, spread := min 50 b[6].toNat }
        (b[0] = 1 → RecordThen s (.tableRecordRead 3 b) left pos 7 0 { w with outbound := some link })
        ∧ (b[0] = 2 → RecordThen s (.tableRecordRead 3 b) left pos 7 0 { w with inbound := some link }))
    ∧ RecordThen s (.tableRecordRead 4 b) left pos 4 0
        { w with weights := #v[min 7 b[0].toNat, min 7 b[1].toNat, min 7 b[2].toNat, min 7 b[3].toNat] }

/-- TABLE_RECORD_READ: a naming field outside its set skips the record, with TABLE_FORMAT flagged and any earlier record
of the id left in place, and the record uses up one of the count, the last one included. The table part ends in RUNNING too at
a byte needed beyond 2047 (LOAD_OVERFLOW, the cut record not taken) and at an unknown type (TABLE_FORMAT); what was taken
before stays. A load that ends with nothing saved starts every block as in RecordsAreTakenClamped (assumptions 14 and 23). That the
overflow is found with the record before it is read from the spec (assumption 19). -/
def Obligations.RecordsAreSkippedAndTheTableEnds : Prop :=
  ∀ (s : State) (type : Byte) (b : Vector Byte 11) (left pos : Nat),
    Active s → s.unit.loader.phase = .records (left + 1) pos →
    let w := s.unit.loader.working
    (b[0].toNat = 0 ∨ 4 < b[0].toNat ∨ 2 < (b[1] &&& 0x7F).toNat →
      RecordThen s (.tableRecordRead 1 b) left pos 11 0x0004 w)
    ∧ (b[0].toNat = 0 ∨ 16 < b[0].toNat ∨ b[1].toNat = 0 ∨ 4 < b[1].toNat ∨ (b[2] &&& 0x7F).toNat = 0
          ∨ 2 < (b[2] &&& 0x7F).toNat →
        RecordThen s (.tableRecordRead 2 b) left pos 6 0x0004 w)
    ∧ (b[0].toNat = 0 ∨ 2 < b[0].toNat ∨ b[1].toNat = 0 ∨ 4 < b[1].toNat ∨ 60 < b[2].toNat ∨ 60 < b[3].toNat →
        RecordThen s (.tableRecordRead 3 b) left pos 7 0x0004 w)
    ∧ ((type.toNat = 0 ∨ 4 < type.toNat) → LoadEnds s (.tableRecordRead type b) w 0x0004)
    ∧ (∀ len : Nat, (type.toNat = 1 ∧ len = 11) ∨ (type.toNat = 2 ∧ len = 6) ∨ (type.toNat = 3 ∧ len = 7)
          ∨ (type.toNat = 4 ∧ len = 4) → 2047 < pos + len →
        LoadEnds s (.tableRecordRead type b) w 0x0002)

/-- RELOAD while LOADING is refused: only the command byte, its status BUSY and the port's internal address change.
COMMAND_UNKNOWN: a code other than the three is ignored with the status REFUSED; the command byte reads it back. RELOAD in
RUNNING or UNCONFIGURED: a CLEAR for a grant or an unanswered offer, every collection of the working blocks emptied
without count, the corridor blocks OFF, what the manual names kept, and a load begun. A write with no transfer open stands
for a whole access (assumption 10), and the reference station shown while the lock is OFF is left open (assumption 4). -/
def Obligations.ReloadAndUnknownCommands : Prop :=
  ((∀ (s : State) (pulses : Nat), Active s → WritesAt s 0x0E → s.unit.loader.run = .loading →
        exec (.reload pulses) s =
          .next { s with unit.maint.address := 0x0F, unit.maint.command := 0x01, unit.maint.status := .busy
                         unit.maint.maskWait := .none })
    ∧ (∀ (s : State) (code : Byte), Active s → WritesAt s 0x0E → code ≠ 0x01 → code ≠ 0x02 → code ≠ 0x03 →
        exec (.commandUnknown code) s =
          .next { s with unit.maint.address := 0x0F, unit.maint.command := code, unit.maint.status := .refused
                         unit.maint.maskWait := .none }))
  ∧ (∀ (s : State) (pulses : Nat), Active s → WritesAt s 0x0E → s.unit.loader.run ≠ .loading → LinkOk s.unit →
      ∃ t : State,
        exec (.reload pulses) s = .next t ∧ t.pending = s.pending ∧ t.unit.localTime = s.unit.localTime
          ∧ linkMessages t.unit = linkMessages s.unit ++
              (match s.unit.arbiter.slot with
               | .free => []
               | .offered o => [.clear o.id]
               | .active g => [.clear g.id])
          ∧ t.unit.table = { slots := Vector.replicate 24 none, evict := s.unit.table.evict, recent := [], requests := [] }
          ∧ t.unit.arbiter = { slot := .free, nextId := s.unit.arbiter.nextId, joins := [] }
          ∧ t.unit.controller.phase = Vector.replicate 4 none ∧ t.unit.controller.framing = .hunting
          ∧ t.unit.controller.silent = false ∧ t.unit.controller.silenceStart = none
          ∧ t.unit.detection = { framing := .hunting, inbox := [] }
          ∧ t.unit.port.state = .off ∧ t.unit.port.queue = [] ∧ t.unit.port.attempt = none ∧ t.unit.port.decoding = none
          ∧ t.unit.handler = s.unit.handler ∧ t.unit.clock.offset = s.unit.clock.offset
          ∧ t.unit.clock.peers = s.unit.clock.peers
          ∧ (s.unit.loader.run = .running →
              t.unit.clock.lock = .off ∧ t.unit.clock.beaconStart = none
                ∧ (t.unit.clock.reference = s.unit.clock.reference ∨ t.unit.clock.reference = 0)
                ∧ t.unit.clock.saved = some
                    { lock := s.unit.clock.lock, reference := s.unit.clock.reference, fine := s.unit.clock.fine,
                      miss := s.unit.clock.miss, holdStart := s.unit.clock.holdStart }
                ∧ t.unit.clock.noted = some (s.unit.loader.inForce.station, s.unit.loader.inForce.rate))
          ∧ (s.unit.loader.run = .unconfigured → t.unit.clock = s.unit.clock)
          ∧ t.unit.loader.inForce = s.unit.loader.inForce ∧ t.unit.loader.siteCode = s.unit.loader.siteCode
          ∧ t.unit.loader.working = .fresh ∧ t.unit.maint.counters = s.unit.maint.counters
          ∧ t.unit.maint.enables = s.unit.maint.enables ∧ t.unit.maint.latch = s.unit.maint.latch
          ∧ t.unit.maint.command = 0x01 ∧ t.unit.maint.status = .done
          ∧ (pulses ≤ 9 → t.unit.loader.run = .loading ∧ t.unit.loader.phase = .addressing
              ∧ t.unit.maint.flags = s.unit.maint.flags)
          ∧ (9 < pulses → t.unit.loader.run = .unconfigured ∧ t.unit.loader.phase = .none
              ∧ t.unit.maint.flags = s.unit.maint.flags ||| 0x0001))

/-! ### The Maintenance Port -/

/-- Transfers: a start with the port's own address opens one in its direction, one with another address (the general call too)
one whose bytes the port ignores, and the start as well as MAINT_TRANSFER_END first ends the transfer before it, dropping a
half-written enables value and an incomplete CLEAR FLAGS (status REFUSED). The first byte of a write sets the internal address;
a byte written where the window takes none is ignored, and the internal address advances, 255 being followed by 0. On the bus
the port acknowledges its own address in either direction and every byte written to it, whatever becomes of the byte; it
acknowledges no other address, no byte of a transfer of another address, and while RSTN is low nothing. What it sends, and the
end of a transfer, it does not answer. A byte written with no transfer open stands for a whole access (assumption 10). -/
def Obligations.MaintenanceTransfers : Prop :=
  (∀ (s : State) (address : BitVec 7) (direction : BusDirection) (b : Byte), Active s →
    (exec (.maintTransferStart address direction) s =
      .next { s with unit.maint.transfer :=
                      if address = 0x38 + s.unit.maint.madr.zeroExtend 7 then
                        (if direction = .write then .writing false else .reading) else .foreign
                     unit.maint.enablesFirst := none, unit.maint.maskWait := .none
                     unit.maint.status := if s.unit.maint.maskWait = .none then s.unit.maint.status else .refused })
    ∧ (exec .maintTransferEnd s =
        .next { s with unit.maint.transfer := .idle, unit.maint.enablesFirst := none, unit.maint.maskWait := .none
                       unit.maint.status :=
                        if s.unit.maint.maskWait = .none then s.unit.maint.status else .refused })
    ∧ (s.unit.maint.transfer = .foreign → ∀ (n : Nat) (p : PendingByte),
        ∀ c ∈ [Instr.internalAddressWrite b, .enablesFirstByteWrite b, .attentionEnablesWrite b, .reload n, .clearCounters,
            .clearFlagsPending p, .clearFlags b, .commandUnknown b, .maintWriteIgnored b, .readLatchFirstByte,
            .readLatchSecondByte],
          exec c s = .next s)
    ∧ (s.unit.maint.transfer = .writing false →
        exec (.internalAddressWrite b) s =
          .next { s with unit.maint.transfer := .writing true, unit.maint.address := b })
    ∧ (s.unit.maint.transfer = .writing true → s.unit.maint.address.toNat < 0x0C ∨ 0x10 < s.unit.maint.address.toNat →
        exec (.maintWriteIgnored b) s = .next { s with unit.maint.address := s.unit.maint.address + 1 }))
  ∧ ∀ (u : Bn24) (address : BitVec 7) (direction : BusDirection) (b : Byte) (n : Nat) (p : PendingByte),
      let start := portAnswer u (.maintTransferStart address direction)
      let answers := fun answer : BusAnswer =>
        ∀ c ∈ [Instr.internalAddressWrite b, .enablesFirstByteWrite b, .attentionEnablesWrite b, .reload n, .clearCounters,
            .clearFlagsPending p, .clearFlags b, .commandUnknown b, .maintWriteIgnored b],
          portAnswer u c = some answer
      (u.resetHeld = true → start = some .noAcknowledge ∧ answers .noAcknowledge)
      ∧ (u.resetHeld = false →
          (address = 0x38 + u.maint.madr.zeroExtend 7 → start = some .acknowledge)
          ∧ (address ≠ 0x38 + u.maint.madr.zeroExtend 7 → start = some .noAcknowledge)
          ∧ (u.maint.transfer = .idle ∨ (∃ addressSet, u.maint.transfer = .writing addressSet) → answers .acknowledge)
          ∧ (u.maint.transfer = .foreign → answers .noAcknowledge))
      ∧ (∀ c ∈ [Instr.readLatchFirstByte, .readLatchSecondByte, .maintTransferEnd], portAnswer u c = none)

/-- The attention enables: the first byte is held without effect, the second sets both bytes at once, a second byte
without its first is ignored, a transfer that ends between them drops the first, and ATTN follows at once. CLEAR FLAGS:
its code and two mask bytes in one write transfer clear each flag whose mask bit is set and no other, with the status
DONE; a transfer that ends before both mask bytes drops the command, no flag changes and the status is REFUSED; a mask
byte without the command is ignored. A byte written with no transfer open stands for a whole access (assumption 10). -/
def Obligations.PairsAreWrittenInOneTransfer : Prop :=
  (∀ (s : State) (first second : Byte), Active s →
      (WritesAt s 0x0C →
        ∃ t : State, exec (.enablesFirstByteWrite first) s = .next t ∧ t.unit.maint.enables = s.unit.maint.enables
          ∧ t.unit.maint.enablesFirst = some first
          ∧ exec (.attentionEnablesWrite second) t =
              .next { t with unit.maint.enables := first ++ second, unit.maint.enablesFirst := none
                             unit.maint.address := 0x0E }
          ∧ ∃ v : State, exec .maintTransferEnd t = .next v ∧ v.unit.maint.enables = s.unit.maint.enables
              ∧ v.unit.maint.enablesFirst = none)
      ∧ (WritesAt s 0x0D → s.unit.maint.enablesFirst = none →
          exec (.attentionEnablesWrite second) s = .next { s with unit.maint.address := 0x0E })
      ∧ (attn s.unit = true ↔ ∃ f : Fin 16, s.unit.maint.flags[f] = true ∧ s.unit.maint.enables[f] = true))
  ∧ (∀ (s : State) (first second : Byte), Active s →
      (s.unit.maint.transfer = .writing true → s.unit.maint.address = 0x0E →
        ∃ t v : State,
          exec (.clearFlagsPending .code) s =
              .next { s with unit.maint.address := 0x0F, unit.maint.command := 0x03, unit.maint.maskWait := .first }
            ∧ exec (.clearFlagsPending .code) s = .next t
            ∧ exec (.clearFlagsPending (.mask first)) t =
                .next { t with unit.maint.address := 0x10, unit.maint.maskWait := .second first }
            ∧ exec (.clearFlagsPending (.mask first)) t = .next v
            ∧ exec (.clearFlags second) v =
                .next { v with unit.maint.flags := s.unit.maint.flags &&& ~~~(first ++ second)
                               unit.maint.address := 0x11, unit.maint.status := .done, unit.maint.maskWait := .none }
            ∧ (∀ w : State, w = t ∨ w = v → ∃ x : State, exec .maintTransferEnd w = .next x
                ∧ x.unit.maint.flags = s.unit.maint.flags ∧ x.unit.maint.status = .refused
                ∧ x.unit.maint.maskWait = .none))
      ∧ (WritesAt s 0x10 → s.unit.maint.maskWait = .none →
          exec (.clearFlags second) s = .next { s with unit.maint.address := 0x11 }))

/-- CLEAR COUNTERS sets all 27 counters to 0 and touches no flag and no other state but the command byte, its status and
the internal address (R197). Of an increment and a clear at one counter, the counter then reads 0 if the clear came last,
1 if the increment did. A pair held in the read latch keeps its value. A write with no transfer open stands for a whole
access (assumption 10). -/
def Obligations.ClearCountersZeroesThemAll : Prop :=
  ∀ s : State, Active s → WritesAt s 0x0E →
    exec .clearCounters s =
        .next { s with unit.maint.counters := Vector.replicate 27 0, unit.maint.address := 0x0F
                       unit.maint.command := 0x02, unit.maint.status := .done, unit.maint.maskWait := .none }
      ∧ ∀ t : State, exec .clearCounters s = .next t →
          (∀ c : Counter, counterOf c t.unit = 0 ∧ counterOf c (count c t.unit) = 1)
          ∧ (∀ c : Counter, exec .clearCounters { s with unit := count c s.unit } = .next t)
          ∧ t.unit.maint.flags = s.unit.maint.flags ∧ t.unit.maint.latch = s.unit.maint.latch

/-- Reading a two-byte field: the event flags, the attention enables (whose bits 10 to 15 read 0, assumption 25), each counter,
and the vehicle number of each table view record (0 for an empty slot). Its first byte comes through the read latch, its second
byte from the latch while that holds the field, and as it stands otherwise; the latch is emptied by the second byte, and the
internal address advances. A read with no transfer open stands for a whole access (assumption 10). -/
def Obligations.TwoByteFieldsAreReadThroughTheLatch : Prop :=
  ∀ (s : State) (a : Nat) (v : Half), Active s → s.unit.maint.transfer = .reading ∨ s.unit.maint.transfer = .idle →
    (a = 0x0A ∧ v = s.unit.maint.flags) ∨ (a = 0x0C ∧ v = s.unit.maint.enables &&& 0x03FF)
      ∨ (∃ i : Fin 27, a = 0x20 + 2 * i.val ∧ v = s.unit.maint.counters[i])
      ∨ (∃ n : SlotIx, a = 0x60 + 4 * n.val ∧ v = (entryIn s.unit n).elim 0 (fun e => e.key.vehicle)) →
    (s.unit.maint.address.toNat = a →
      exec .readLatchFirstByte s =
        .next { s with unit.maint.readData := some (v.extractLsb' 8 8)
                       unit.maint.latch := some { field := s.unit.maint.address, value := v }
                       unit.maint.address := s.unit.maint.address + 1 })
    ∧ (s.unit.maint.address.toNat = a + 1 →
        (∀ held : Half, s.unit.maint.latch = some { field := s.unit.maint.address - 1, value := held } →
          exec .readLatchSecondByte s =
            .next { s with unit.maint.readData := some (held.extractLsb' 0 8), unit.maint.latch := none
                           unit.maint.address := s.unit.maint.address + 1 })
        ∧ ((∀ l ∈ s.unit.maint.latch, l.field ≠ s.unit.maint.address - 1) →
            exec .readLatchSecondByte s =
              .next { s with unit.maint.readData := some (v.extractLsb' 0 8)
                             unit.maint.address := s.unit.maint.address + 1 }))

/-- The table view: byte 3 of a record codes confirmation, service state with the partial flag, and grade as section 11.5
says, byte 2 is the trip tag, bytes 0 and 1 the vehicle number through the latch; an empty slot reads 0 in all four (byte 1 by
READ_LATCH_SECOND_BYTE, the others by READ_LATCH_FIRST_BYTE). The single bytes of the window read as they stand: identity, run
state, lock state, reference station, port state, grant slot, occupancy, site code, command byte and status; every address
without a field reads 0. A one-byte field is read by READ_LATCH_FIRST_BYTE (assumption 9), and a
read with no transfer open stands for a whole access (assumption 10). -/
def Obligations.WindowBytes : Prop :=
  (∀ (s : State) (n : SlotIx), Active s → s.unit.maint.transfer = .reading ∨ s.unit.maint.transfer = .idle →
      (∀ e : Entry, entryIn s.unit n = some e → EntryOk e →
        (s.unit.maint.address.toNat = 0x60 + 4 * n.val → ∃ t : State, exec .readLatchFirstByte s = .next t
          ∧ t.unit.maint.readData = some (e.key.vehicle.extractLsb' 8 8)
          ∧ t.unit.maint.latch = some { field := s.unit.maint.address, value := e.key.vehicle })
        ∧ (s.unit.maint.address.toNat = 0x62 + 4 * n.val →
            exec .readLatchFirstByte s = .next { s with unit.maint.readData := some e.key.trip
                                                        unit.maint.address := s.unit.maint.address + 1 })
        ∧ (s.unit.maint.address.toNat = 0x63 + 4 * n.val → ∃ b : Byte,
            exec .readLatchFirstByte s = .next { s with unit.maint.readData := some b
                                                        unit.maint.address := s.unit.maint.address + 1 }
            ∧ b.toNat % 16 = e.grade ∧ (128 ≤ b.toNat ↔ e.confirmation = .confirmed)
            ∧ b.toNat / 16 % 8 =
                (let part := e.decision.elim 0 (fun d => d.isPartial.toNat)
                 match e.service with
                 | .waiting => 0
                 | .armed => 1 + part
                 | .offered => 3 + part
                 | .granted => 5 + part
                 | .riding => 7)))
      ∧ (entryIn s.unit n = none → ∀ k : Fin 4, s.unit.maint.address.toNat = 0x60 + 4 * n.val + k.val →
          (k ≠ 1 → ∃ t : State, exec .readLatchFirstByte s = .next t ∧ t.unit.maint.readData = some 0)
          ∧ (k = 1 → (∀ l ∈ s.unit.maint.latch, l.field ≠ s.unit.maint.address - 1) →
              exec .readLatchSecondByte s = .next { s with unit.maint.readData := some 0
                                                           unit.maint.address := s.unit.maint.address + 1 })))
  ∧ (∀ (s : State), Active s → s.unit.maint.transfer = .reading ∨ s.unit.maint.transfer = .idle →
      ∀ (a v : Nat),
        (a = 0x00 ∧ v = 0x24)
          ∨ (a = 0x01 ∧ v = (match s.unit.loader.run with | .loading => 0 | .running => 1 | .unconfigured => 2))
          ∨ (a = 0x02 ∧ v = (match s.unit.clock.lock with
              | .off => 0 | .acquiring => 1 | .coarse => 2 | .fine => 3 | .holdover => 4 | .free => 5))
          ∨ (a = 0x03 ∧ s.unit.clock.reference ≤ 60 ∧ v = s.unit.clock.reference)
          ∨ (a = 0x04 ∧ v = (match s.unit.port.state with
              | .off => 0 | .quietWait => 1 | .idle => 2 | .contend => 3 | .send => 4 | .receive => 5 | .silent => 6))
          ∨ (a = 0x05 ∧ v = (match s.unit.arbiter.slot with | .free => 0 | .offered _ => 1 | .active _ => 2))
          ∨ (a = 0x06 ∧ v = (List.finRange 24).countP (fun i => (entryIn s.unit i).isSome))
          ∨ (a = 0x07 ∧ v = s.unit.loader.siteCode.toNat / 256) ∨ (a = 0x08 ∧ v = s.unit.loader.siteCode.toNat % 256)
          ∨ (a = 0x0E ∧ v = s.unit.maint.command.toNat)
          ∨ (a = 0x11 ∧ v = (match s.unit.maint.status with | .idle => 0 | .done => 1 | .busy => 2 | .refused => 3))
          ∨ ((a = 0x09 ∨ a = 0x0F ∨ a = 0x10 ∨ (0x12 ≤ a ∧ a ≤ 0x1F) ∨ (0x56 ≤ a ∧ a ≤ 0x5F) ∨ 0xC0 ≤ a) ∧ v = 0) →
        s.unit.maint.address.toNat = a →
        exec .readLatchFirstByte s = .next { s with unit.maint.readData := some (BitVec.ofNat 8 v)
                                                    unit.maint.address := s.unit.maint.address + 1 })

/-! ### The Detection Receiver and the receiver of the controller link -/

/-- Both receivers, while RUNNING, byte by byte: while hunting the start byte begins a message and any other is discarded; the
next is the length, which drops the message with one count if it lies outside 1 to 16; then so many bytes are held, 0xD2 among
them being data, the end time moving with each; and the byte after them is the check, with which the message has come whole. A
gap or a character error within a message counts once and discards what is held; while hunting it has no effect. A byte that
comes after a whole ds in between abandons the message likewise and is then taken while hunting, and a line that stays idle
abandons it in a step on an empty queue, once the ds of its last byte is over (the detection line first, both before any other
timer). Outside RUNNING every byte is discarded. That DET_MESSAGE_RECEIVED and CONTROLLER_MESSAGE_RECEIVED carry the bytes of a
message that is not whole, that the end time is the present ds, and that the gap is so counted in whole ds, is the model's choice
(assumptions 2, 15 and 20). -/
def Obligations.ReceiversFrameMessages : Prop :=
  FramesBytes (fun u => u.detection.framing) setDetFraming .detBad .detStartByte .detGapAbandon .detCharacterError
      .detLengthDrop .detMessageReceived
  ∧ FramesBytes (fun u => u.controller.framing) setLinkFraming .linkBad .linkStartByte .linkGapAbandon .linkCharacterError
      .linkLengthDrop .controllerMessageReceived
  ∧ ∀ (u : Bn24) (m : Collected),
      let s : State := { pending := [], unit := u }
      Running s → queuedCommand u = none → 1 ≤ age u.localTime m.lastEnd →
      (u.detection.framing = .collecting m →
        step s = .next { s with unit := count .detBad (setDetFraming .hunting u) })
      ∧ (u.detection.framing = .hunting → u.controller.framing = .collecting m →
          step s = .next { s with unit := count .linkBad (setLinkFraming .hunting u) })

/-- DET_MESSAGE_RECEIVED: a message that fails one of the first six tests is dropped, and the one counter of the first
test it fails is incremented: DET_BAD for the check, the kind, the length, the vehicle number and the route class, then
DET_UNKNOWN_POINT for a CHECK-IN or CHECK-OUT whose point is outside 1 to 16, not loaded, or of the other kind.
DET_MESSAGE_RECEIVED: a message that passes the tests is clamped (lateness into -600 to +600 s, a measured speed other
than 0 into the bounds of the point's approach; a CANCEL names no point and is tested against none) and goes to the back of the
inbox, its turn reaching the table as it enters; an inbox of 8 keeps its messages, and the new one is lost with DET_OVERFLOW counted and INBOX_OVERFLOW flagged. -/
def Obligations.DetectionMessagesAreTested : Prop :=
  (∀ (s : State) (payload : List Byte) (check : Byte), Running s →
      let drop := fun (p : List Byte) (c : Counter) =>
        exec (.detMessageReceived p check) s =
          .next { s with unit := count c { s.unit with detection.framing := .hunting } }
      (¬ SumsToZero payload check → drop payload .detBad)
      ∧ ((∀ k ∈ payload.head?, k ≠ 0x31 ∧ k ≠ 0x32 ∧ k ≠ 0x33) → drop payload .detBad)
      ∧ ((payload.head? = some 0x31 ∧ payload.length ≠ 11) ∨ (payload.head? = some 0x32 ∧ payload.length ≠ 8)
            ∨ (payload.head? = some 0x33 ∧ payload.length ≠ 4) → drop payload .detBad)
      ∧ ∀ (p v1 v0 trip cls l1 l0 s1 s0 fl : Byte),
          ((v1 ++ v0 : Half) = 0 ∨ (v1 ++ v0 : Half) = 0xFFFF →
            drop [0x31, p, v1, v0, trip, cls, l1, l0, s1, s0, fl] .detBad
              ∧ drop [0x32, p, v1, v0, trip, cls, l1, l0] .detBad ∧ drop [0x33, v1, v0, trip] .detBad)
          ∧ (3 < cls.toNat →
              drop [0x31, p, v1, v0, trip, cls, l1, l0, s1, s0, fl] .detBad
                ∧ drop [0x32, p, v1, v0, trip, cls, l1, l0] .detBad)
          ∧ ((v1 ++ v0 : Half) ≠ 0 → (v1 ++ v0 : Half) ≠ 0xFFFF → cls.toNat ≤ 3 →
              (SumsToZero [0x31, p, v1, v0, trip, cls, l1, l0, s1, s0, fl] check →
                (∀ (q : PointIx) (r : PointRecord), p.toNat = q.val + 1 → pointRecord s.unit q = some r →
                  r.kind = .checkOut) →
                drop [0x31, p, v1, v0, trip, cls, l1, l0, s1, s0, fl] .detUnknownPoint)
              ∧ (SumsToZero [0x32, p, v1, v0, trip, cls, l1, l0] check →
                  (∀ (q : PointIx) (r : PointRecord), p.toNat = q.val + 1 → pointRecord s.unit q = some r →
                    r.kind = .checkIn) →
                  drop [0x32, p, v1, v0, trip, cls, l1, l0] .detUnknownPoint)))
  ∧ (∀ (s : State) (check p v1 v0 trip cb l1 l0 s1 s0 fl : Byte) (q : PointIx) (cls : Fin 4) (r : PointRecord) (lo hi : Nat),
      Running s → (v1 ++ v0 : Half) ≠ 0 → (v1 ++ v0 : Half) ≠ 0xFFFF → cb.toNat = cls.val → p.toNat = q.val + 1 →
      pointRecord s.unit q = some r →
      (match approachRecord s.unit r.approach with
        | some a => lo = a.vMin ∧ hi = a.vMax
        | none => lo = 20 ∧ hi = 300) →
      let lost := flag .inboxOverflow (count .detOverflow { s.unit with detection.framing := .hunting })
      let enters := fun (payload : List Byte) (m : DetectionMessage) =>
        exec (.detMessageReceived payload check) s =
          if s.unit.detection.inbox.length < 8 then
            .next { s with unit.detection.framing := .hunting, unit.detection.inbox := s.unit.detection.inbox ++ [m]
                           unit.table.requests := s.unit.table.requests ++ [.detection] }
          else .next { s with unit := lost }
      let late : Int := max (-600) (min 600 (l1 ++ l0 : Half).toInt)
      let measured := (s1 ++ s0 : Half).toNat
      let speed := if measured = 0 then 0 else if measured < lo then lo else if hi < measured then hi else measured
      let key : Key := { vehicle := v1 ++ v0, trip := trip }
      (r.kind = .checkIn → SumsToZero [0x31, p, v1, v0, trip, cb, l1, l0, s1, s0, fl] check →
        enters [0x31, p, v1, v0, trip, cb, l1, l0, s1, s0, fl] (.checkIn q key cls late speed (fl.getLsbD 0)))
      ∧ (r.kind = .checkOut → SumsToZero [0x32, p, v1, v0, trip, cb, l1, l0] check →
          enters [0x32, p, v1, v0, trip, cb, l1, l0] (.checkOut q key cls late)))
  ∧ (∀ (s : State) (check v1 v0 trip : Byte), Running s → (v1 ++ v0 : Half) ≠ 0 → (v1 ++ v0 : Half) ≠ 0xFFFF →
      SumsToZero [0x33, v1, v0, trip] check →
      exec (.detMessageReceived [0x33, v1, v0, trip] check) s =
        if s.unit.detection.inbox.length < 8 then
          .next { s with unit.detection.framing := .hunting
                         unit.detection.inbox := s.unit.detection.inbox ++ [DetectionMessage.cancel { vehicle := v1 ++ v0, trip := trip }]
                         unit.table.requests := s.unit.table.requests ++ [.detection] }
        else
          let lost := flag .inboxOverflow (count .detOverflow { s.unit with detection.framing := .hunting })
          .next { s with unit := lost })

/-! ### The Forecast Unit -/

/-- The grade of a route class, a lateness and a chain: 0 for a bus ahead of the threshold; else the class weight plus one
for each full 30 s of lateness up to 300 s, at most 15; damped by 4, to no less than 1, once the chain has reached a chain
limit that is not 0. -/
def Obligations.GradesFollowClassLatenessAndChain : Prop :=
  ∀ (u : Bn24) (cls : Fin 4) (lateness : Int) (chain : Nat),
    let late : Int := max (-600) (min 600 lateness)
    let base := min 15 (u.loader.inForce.weights[cls] + (min 300 (max 0 late)).toNat / 30)
    let limit := u.loader.inForce.params.chainLimit
    gradeOf u cls lateness chain =
        (if late < -(u.loader.inForce.params.ahead : Int) then 0
         else if limit ≠ 0 ∧ limit ≤ chain ∧ 1 ≤ base then max 1 (base - 4) else base)
      ∧ gradeOf u cls lateness chain ≤ 15

/-- The travel time from a point to the stop line is the ceiling of 100 d / v: the least whole number of ds whose product
with v is not less than 100 d. It lies between 4 and 15,000 ds for the distances and the speeds that a configuration
allows (R34). The speed is the measured one, or the nominal one where none is measured, brought into the approach's bounds, 20 to 300
without an approach record; the lead is the travel time with the dwell of a stop ahead that is not skipped, at most 3,000 ds; the
spread is the approach's percentage of the lead, 10 to 300 ds; without a record dwell and percentage are 0. The window lies
around the arrival at t plus the lead, by the spread, and never starts before t; it keeps the three limits of every window (its
end after its start by at most 600 ds and within 3,300 ds of t). -/
def Obligations.LocalForecasts : Prop :=
  ((∀ d v : Nat, 0 < v →
      100 * d ≤ travelTime d v * v ∧ ∀ n : Nat, 100 * d ≤ n * v → travelTime d v ≤ n)
    ∧ ∀ d v : Nat, 10 ≤ d → d ≤ 3000 → 20 ≤ v → v ≤ 300 → 4 ≤ travelTime d v ∧ travelTime d v ≤ 15000)
  ∧ (∀ (u : Bn24) (p : PointRecord) (measured : Nat) (skip : Bool),
      let a := approachRecord u p.approach
      let lo := a.elim 20 ApproachRecord.vMin
      let hi := a.elim 300 ApproachRecord.vMax
      let speed := if measured = 0 then p.nominal else measured
      let v := if speed < lo then lo else if hi < speed then hi else speed
      let lead := min 3000 (travelTime p.distance v
        + (if p.stopAhead = true ∧ skip = false then a.elim 0 ApproachRecord.dwell else 0))
      let spread := max 10 (min 300 ((lead * a.elim 0 ApproachRecord.spread + 99) / 100))
      let w := localWindow u p measured skip
      forecastSpeed u p measured = v ∧ localLead u p measured skip = lead
        ∧ w.stop = u.localTime + ds (lead + spread)
        ∧ timeDiff w.start u.localTime = max 0 ((lead : Int) - spread)
        ∧ 0 < timeDiff w.stop w.start ∧ timeDiff w.stop w.start ≤ 600 ∧ timeDiff w.stop u.localTime ≤ 3300)

/-- A passage forecast: untimed without time quality at either station; stale when the departure lies back more than the
link time plus the stale limit; else a window around an arrival that is bounded into the next 3,000 ds, with the spread of
the link, 20 ds wider when FAIR, and the limits of every window. (The one premise on times keeps the arrival within the
range of the modular difference, as every link time and dwell of a configuration do for a departure less than 9 days
ahead.) The time quality of a lock state: none in OFF and ACQUIRING, fair in COARSE and HOLDOVER, good in FINE and FREE. The
unit's own is that of its lock state; the sender's is none with the timed flag clear, else that of the lock state in its
peer record, and fair with no record or a stale one (R45). -/
def Obligations.PassageForecasts : Prop :=
  (∀ (u : Bn24) (f : ReceivedPassage) (l : LinkRecord),
    let elapsed := timeDiff u.localTime (f.departure - u.clock.offset)
    let dwell := (approachRecord u l.approach).elim 0 (fun r => if r.nearSide = true then r.dwell else 0)
    let lead : Int := max 0 (min 3000 ((l.linkTime + dwell : Nat) - elapsed))
    let receiver := lockQuality u.clock.lock
    let sender := senderQuality u f
    let spread := fun extra : Nat => max 10 (min 300 (((l.linkTime + dwell) * l.spread + 99) / 100 + extra))
    let timed := fun (q : Quality) (extra : Nat) =>
      ∃ w : Window, passageForecast u f l = .timed w q (gradeOf u f.routeClass f.lateness f.chain)
        ∧ timeDiff w.start u.localTime = max 0 (lead - spread extra)
        ∧ timeDiff w.stop u.localTime = lead + spread extra
        ∧ 0 < timeDiff w.stop w.start ∧ timeDiff w.stop w.start ≤ 600 ∧ timeDiff w.stop u.localTime ≤ 3300
    let stale := max 0 elapsed > (l.linkTime + u.loader.inForce.params.staleLimit : Nat)
    (sender = .none ∨ receiver = .none →
      passageForecast u f l = .untimed (gradeOf u f.routeClass f.lateness f.chain))
    ∧ (sender ≠ .none → receiver ≠ .none → stale → passageForecast u f l = .stale)
    ∧ (((l.linkTime + dwell : Nat) : Int) - elapsed ≤ 8388607 → sender = .good → receiver = .good → ¬ stale → timed .good 0)
    ∧ (((l.linkTime + dwell : Nat) : Int) - elapsed ≤ 8388607 → sender ≠ .none → receiver ≠ .none →
        sender = .fair ∨ receiver = .fair → ¬ stale → timed .fair 20))
  ∧ (∀ lock : LockState,
      ((lock = .off ∨ lock = .acquiring) ↔ lockQuality lock = .none)
        ∧ ((lock = .coarse ∨ lock = .holdover) ↔ lockQuality lock = .fair)
        ∧ ((lock = .fine ∨ lock = .free) ↔ lockQuality lock = .good))
  ∧ (∀ (u : Bn24) (f : ReceivedPassage), PeersOk u →
      (f.timed = false → senderQuality u f = .none)
      ∧ (f.timed = true → (∀ p ∈ u.clock.peers, p.station = f.sender →
            (u.loader.inForce.params.referenceTimeout : Int) < age u.localTime p.last) → senderQuality u f = .fair)
      ∧ (f.timed = true → ∀ p ∈ u.clock.peers, p.station = f.sender →
          age u.localTime p.last ≤ (u.loader.inForce.params.referenceTimeout : Int) →
          senderQuality u f = lockQuality p.lock))

/-! ### The Approach Table -/

/-- CHECK_IN for a key with no entry and not live in recent departures: a CONFIRMED entry with chain 0 and the local
forecast's window and grade takes the lowest empty slot in WAITING, and its evaluation is requested. CHECK_IN for a key
whose entry is WAITING, ARMED or OFFERED: the entry is CONFIRMED with the new approach, window and grade, its chain and
served field kept, its declined mark kept only on the same approach; an ARMED entry of grade 0 and an OFFERED entry go
back to WAITING without a decision, the offer being abandoned; an evaluation is requested. A member of the grant that still
fits it on its approach (a rider or holder of EXTEND with its window end and the margin up to the service edge; of EARLY with
its window start before the recorded green start and, for a rider only, not before the edge) stays as it is but for the new
forecast; one that does not leaves the grant for WAITING, with succession or the grant's end, and is evaluated, after the
approach of a grant that ends with it (assumption 22). -/
def Obligations.CheckInsMakeEntries : Prop :=
  (∀ (s : State) (p : PointIx) (k : Key) (cls : Fin 4) (late : Int) (speed : Nat) (skip : Bool) (rq : List TableRequest)
      (ib : List DetectionMessage) (r : PointRecord) (i : SlotIx),
      TakesDetection s (.checkIn p k cls late speed skip) rq ib → pointRecord s.unit p = some r →
      (∀ d ∈ liveRecent s.unit, d.key ≠ k) → NoEntry s.unit k → LowestEmpty s.unit i →
      exec .checkIn s =
        .next { s with unit.detection.inbox := ib, unit.table.recent := liveRecent s.unit
                       unit.table.slots := s.unit.table.slots.set i (some
                        { key := k, confirmation := .confirmed, approach := r.approach, chain := 0
                          grade := gradeOf s.unit cls late 0, window := some (localWindow s.unit r speed skip)
                          quality := none, updated := s.unit.localTime, service := .waiting, decision := none
                          declined := none, served := false })
                       unit.table.requests := rq ++ [.evaluation { slot := i, key := k }] })
  ∧ (∀ (s : State) (p : PointIx) (k : Key) (cls : Fin 4) (late : Int) (speed : Nat) (skip : Bool) (rq : List TableRequest)
      (ib : List DetectionMessage) (r : PointRecord) (i : SlotIx) (e : Entry),
      TakesDetection s (.checkIn p k cls late speed skip) rq ib → pointRecord s.unit p = some r →
      (∀ d ∈ liveRecent s.unit, d.key ≠ k) → HoldsKey s.unit k i e →
      e.service = .waiting ∨ e.service = .armed ∨ e.service = .offered →
      exec .checkIn s =
        .next { s with unit.detection.inbox := ib, unit.table.recent := liveRecent s.unit
                       unit.arbiter.slot :=
                        if e.service = .offered then abandoned s.unit.arbiter.slot else s.unit.arbiter.slot
                       unit.table.slots := s.unit.table.slots.set i (some
                        { key := k, confirmation := .confirmed, approach := r.approach, chain := e.chain
                          grade := gradeOf s.unit cls late e.chain, window := some (localWindow s.unit r speed skip)
                          quality := none, updated := s.unit.localTime
                          service := if e.service = .armed ∧ gradeOf s.unit cls late e.chain ≠ 0 then .armed else .waiting
                          decision :=
                            if e.service = .offered ∨ (e.service = .armed ∧ gradeOf s.unit cls late e.chain = 0) then none
                            else e.decision
                          declined := if e.approach = r.approach then e.declined else none, served := e.served })
                       unit.table.requests := rq ++ [.evaluation { slot := i, key := k }] })
  ∧ (∀ (s : State) (p : PointIx) (k : Key) (cls : Fin 4) (late : Int) (speed : Nat) (skip : Bool) (rq : List TableRequest)
      (ib : List DetectionMessage) (r : PointRecord) (i : SlotIx) (e : Entry) (g : Grant),
      TakesDetection s (.checkIn p k cls late speed skip) rq ib → pointRecord s.unit p = some r →
      (∀ d ∈ liveRecent s.unit, d.key ≠ k) → HoldsKey s.unit k i e →
      e.service = .granted ∨ e.service = .riding → s.unit.arbiter.slot = .active g →
      let taken : Bn24 :=
        { s.unit with detection.inbox := ib, table.recent := liveRecent s.unit, table.requests := rq }
      let new : Entry :=
        { e with confirmation := .confirmed, approach := r.approach, grade := gradeOf s.unit cls late e.chain
                 window := some (localWindow s.unit r speed skip), quality := none, updated := s.unit.localTime
                 declined := if e.approach = r.approach then e.declined else none }
      (e.approach = r.approach → Fits taken g (HoldsGrant g i) new →
        exec .checkIn s = .next { s with unit := { taken with table.slots := s.unit.table.slots.set i (some new) } })
      ∧ (e.approach ≠ r.approach ∨ ¬ Fits taken g (HoldsGrant g i) new → LeavesGrant .checkIn s taken g i e new))

/-- A full table: a CHECK-IN for a new key evicts the forecast victim, the pointer moving past it; with none, it evicts
the CONFIRMED WAITING entry of the lowest grade (lowest slot first) if that grade is strictly lower than its own, the
pointer staying; else it is refused with TABLE_REFUSED counted and TABLE_FULL flagged. -/
def Obligations.FullTableMakesRoomOrRefuses : Prop :=
  ∀ (s : State) (p : PointIx) (k : Key) (cls : Fin 4) (late : Int) (speed : Nat) (skip : Bool) (rq : List TableRequest)
    (ib : List DetectionMessage) (r : PointRecord),
    TakesDetection s (.checkIn p k cls late speed skip) rq ib → pointRecord s.unit p = some r →
    (∀ d ∈ liveRecent s.unit, d.key ≠ k) → NoEntry s.unit k → (∀ i : SlotIx, entryIn s.unit i ≠ none) →
    let new := newConfirmed s.unit r k cls late speed skip
    let taken : Bn24 :=
      { s.unit with detection.inbox := ib, table.recent := liveRecent s.unit, table.requests := rq }
    let written := fun (v evict : SlotIx) =>
      { taken with table.slots := s.unit.table.slots.set v (some new), table.evict := evict
                   table.requests := rq ++ [.evaluation { slot := v, key := k }] }
    let placed := fun (v evict : SlotIx) => { s with unit := count .tableEvicted (written v evict) }
    (∀ v : SlotIx, ForecastVictim s.unit v → exec .checkIn s = .next (placed v (v + 1)))
    ∧ ((∀ i e, ¬ WaitingIn s.unit .forecast i e) →
        (∀ (j : SlotIx) (f : Entry), WaitingIn s.unit .confirmed j f →
          (∀ i e, WaitingIn s.unit .confirmed i e → f.grade ≤ e.grade ∧ (i < j → f.grade < e.grade)) →
          (f.grade < new.grade → exec .checkIn s = .next (placed j s.unit.table.evict))
          ∧ (new.grade ≤ f.grade →
              exec .checkIn s = .next { s with unit := flag .tableFull (count .tableRefused taken) }))
        ∧ ((∀ i e, ¬ WaitingIn s.unit .confirmed i e) →
            exec .checkIn s = .next { s with unit := flag .tableFull (count .tableRefused taken) }))

/-- An item whose key is live in recent departures is discarded and counted before any entry is looked for: a CHECK-IN or
a CHECK-OUT under DET_DUPLICATE (no PASSAGE is requested), a forecast request under FORECAST_DISCARDED; the list is not
refreshed. -/
def Obligations.LiveDeparturesDiscardLateItems : Prop :=
  ∀ (s : State) (p : PointIx) (k : Key) (cls : Fin 4) (late : Int) (speed : Nat) (skip : Bool) (rq : List TableRequest)
    (ib : List DetectionMessage) (f : ForecastRequest), Active s →
    (∃ d ∈ s.unit.table.recent, d.key = k ∧ age s.unit.localTime d.time ≤ 1200) →
    let taken : Bn24 := { s.unit with table.recent := liveRecent s.unit, table.requests := rq }
    let discarded := { s with unit := count .detDuplicate { taken with detection.inbox := ib } }
    (TakesDetection s (.checkIn p k cls late speed skip) rq ib → exec .checkIn s = .next discarded)
    ∧ (TakesDetection s (.checkOut p k cls late) rq ib → exec .checkOut s = .next discarded)
    ∧ (s.unit.table.requests = .forecast f :: rq → f.key = k →
        exec .forecastRequest s = .next { s with unit := count .forecastDiscarded taken })

/-- CHECK_OUT of an entry that is WAITING, ARMED or OFFERED: its slot becomes empty (an offer of it is abandoned), its key
is added to recent departures, and a PASSAGE is requested exactly where the approach's role and the link record allow,
carrying chain plus 1 for a served entry and 0 else, and the entry's grade. No counter changes. A member of the grant
leaves it and is reported in the same way. CHECK_OUT of a key with no entry: CHECKOUT_UNMATCHED is counted, the key is added to recent departures, and a PASSAGE is requested where allowed,
with chain 0 and the grade of the message. -/
def Obligations.CheckOutsAreReported : Prop :=
  (∀ (s : State) (p : PointIx) (k : Key) (cls : Fin 4) (late : Int) (rq : List TableRequest) (ib : List DetectionMessage)
      (r : PointRecord) (i : SlotIx) (e : Entry),
      TakesDetection s (.checkOut p k cls late) rq ib → pointRecord s.unit p = some r →
      (∀ d ∈ liveRecent s.unit, d.key ≠ k) → HoldsKey s.unit k i e →
      e.service = .waiting ∨ e.service = .armed ∨ e.service = .offered →
      ∃ sent : List HandlerRequest,
        exec .checkOut s =
          .next { s with unit.detection.inbox := ib, unit.table.requests := rq
                         unit.table.slots := s.unit.table.slots.set i none
                         unit.table.recent := recentWith s.unit k
                         unit.arbiter.slot :=
                          if e.service = .offered then abandoned s.unit.arbiter.slot else s.unit.arbiter.slot
                         unit.handler.requests := s.unit.handler.requests ++ sent }
        ∧ (ReportsOnward s.unit r.approach → sent = [.passage
            { key := k, routeClass := cls, lateness := late, chain := if e.served = true then min 15 (e.chain + 1) else 0
              grade := e.grade, approach := r.approach, checkOut := s.unit.localTime }])
        ∧ (¬ ReportsOnward s.unit r.approach → sent = []))
  ∧ (∀ (s : State) (p : PointIx) (k : Key) (cls : Fin 4) (late : Int) (rq : List TableRequest) (ib : List DetectionMessage)
      (r : PointRecord),
      TakesDetection s (.checkOut p k cls late) rq ib → pointRecord s.unit p = some r →
      (∀ d ∈ liveRecent s.unit, d.key ≠ k) → NoEntry s.unit k →
      ∃ sent : List HandlerRequest,
        let u : Bn24 :=
          { s.unit with detection.inbox := ib, table.requests := rq, table.recent := recentWith s.unit k
                        handler.requests := s.unit.handler.requests ++ sent }
        exec .checkOut s = .next { s with unit := count .checkoutUnmatched u }
        ∧ (ReportsOnward s.unit r.approach → sent = [.passage
            { key := k, routeClass := cls, lateness := late, chain := 0, grade := gradeOf s.unit cls late 0
              approach := r.approach, checkOut := s.unit.localTime }])
        ∧ (¬ ReportsOnward s.unit r.approach → sent = []))
  ∧ (∀ (s : State) (p : PointIx) (k : Key) (cls : Fin 4) (late : Int) (rq : List TableRequest) (ib : List DetectionMessage)
      (r : PointRecord) (i : SlotIx) (e : Entry) (g : Grant),
      TakesDetection s (.checkOut p k cls late) rq ib → pointRecord s.unit p = some r →
      (∀ d ∈ liveRecent s.unit, d.key ≠ k) → HoldsKey s.unit k i e →
      e.service = .granted ∨ e.service = .riding → s.unit.arbiter.slot = .active g →
      ∃ (t : State) (sent : List HandlerRequest),
        exec .checkOut s = .next t ∧ entryIn t.unit i = none ∧ t.unit.table.recent = recentWith s.unit k
          ∧ t.unit.handler.requests = s.unit.handler.requests ++ sent
          ∧ (∀ h : Grant, t.unit.arbiter.slot = .active h → { slot := i, key := k } ∉ h.members)
          ∧ (ReportsOnward s.unit r.approach → sent = [.passage
              { key := k, routeClass := cls, lateness := late, chain := if e.served = true then min 15 (e.chain + 1) else 0
                grade := e.grade, approach := r.approach, checkOut := s.unit.localTime }])
          ∧ (¬ ReportsOnward s.unit r.approach → sent = []))

/-- CANCEL, whether or not its key is live in recent departures: an entry of the key that is WAITING, ARMED or OFFERED is
removed (an offer of it abandoned), the key is added to recent departures or refreshed there, and a WITHDRAW is requested.
No counter changes. -/
def Obligations.CancelRemovesAndWithdraws : Prop :=
  ∀ (s : State) (k : Key) (rq : List TableRequest) (ib : List DetectionMessage), TakesDetection s (.cancel k) rq ib →
    (NoEntry s.unit k →
      exec .cancel s =
        .next { s with unit.detection.inbox := ib, unit.table.requests := rq, unit.table.recent := recentWith s.unit k
                       unit.handler.requests := s.unit.handler.requests ++ [.withdraw k] })
    ∧ (∀ (i : SlotIx) (e : Entry), HoldsKey s.unit k i e →
        e.service = .waiting ∨ e.service = .armed ∨ e.service = .offered →
        exec .cancel s =
          .next { s with unit.detection.inbox := ib, unit.table.requests := rq, unit.table.recent := recentWith s.unit k
                         unit.table.slots := s.unit.table.slots.set i none
                         unit.arbiter.slot :=
                          if e.service = .offered then abandoned s.unit.arbiter.slot else s.unit.arbiter.slot
                         unit.handler.requests := s.unit.handler.requests ++ [.withdraw k] })

/-- FORECAST_REQUEST, its key not live in recent departures: it leaves a CONFIRMED entry of its key alone; a stale one is
discarded and counted; else a FORECAST entry of its key takes the new chain, approach, window, quality and grade. A WAITING
or ARMED entry is then evaluated, an ARMED one of grade 0 or without a window being WAITING again; an OFFERED entry stays
if its call stands on its approach, its evaluation giving the kind and the amount offered, whole or partial, and is WAITING
otherwise, the offer abandoned; a member, rider or holder, stays if it still fits its grant on its approach, and leaves it
otherwise, being evaluated after the approach of a grant that ends with it (assumption 22). A key with no entry gets a FORECAST entry in the lowest empty slot, in a full
table over the forecast victim, and with none is discarded and counted. -/
def Obligations.ForecastRequestsByTheFirstCase : Prop :=
  ∀ (s : State) (f : ForecastRequest) (rq : List TableRequest) (w : Option Window) (q : Option Quality) (g : Nat),
    Running s → s.unit.table.requests = .forecast f :: rq → (∀ d ∈ liveRecent s.unit, d.key ≠ f.key) →
    let taken : Bn24 := { s.unit with table.recent := liveRecent s.unit, table.requests := rq }
    let rewritten := fun e : Entry =>
      { e with chain := f.chain, approach := f.approach, window := w, quality := q, grade := g, updated := s.unit.localTime
               declined := if e.approach = f.approach then e.declined else none }
    let back := fun e : Entry => { rewritten e with service := .waiting, decision := none }
    let created : Entry :=
      { key := f.key, confirmation := .forecast, approach := f.approach, chain := f.chain, grade := g, window := w
        quality := q, updated := s.unit.localTime, service := .waiting, decision := none, declined := none, served := false }
    let writes := fun (i : SlotIx) (e : Entry) =>
      { taken with table.slots := s.unit.table.slots.set i (some e) }
    let evaluates := fun (i : SlotIx) (e : Entry) =>
      { writes i e with table.requests := rq ++ [.evaluation { slot := i, key := f.key }] }
    let holds := (w = none ∧ q = none ∧ f.result = .untimed g)
      ∨ (∃ w' q', w = some w' ∧ q = some q' ∧ f.result = .timed w' q' g)
    (∀ i e, HoldsKey s.unit f.key i e → e.confirmation = .confirmed →
      exec .forecastRequest s = .next { s with unit := taken })
    ∧ ((∀ i e, HoldsKey s.unit f.key i e → e.confirmation = .forecast) → KeysOk s.unit → f.result = .stale →
        exec .forecastRequest s = .next { s with unit := count .forecastDiscarded taken })
    ∧ (∀ i e, HoldsKey s.unit f.key i e → e.confirmation = .forecast → holds →
        (e.service = .waiting → exec .forecastRequest s = .next { s with unit := evaluates i (rewritten e) })
        ∧ (e.service = .armed →
            exec .forecastRequest s =
              .next { s with unit := evaluates i (if g = 0 ∨ w = none then back e else rewritten e) })
        ∧ (e.service = .offered → e.approach = f.approach → CallStands taken (rewritten e) →
            exec .forecastRequest s = .next { s with unit := writes i (rewritten e) })
        ∧ (e.service = .offered → e.approach ≠ f.approach ∨ ¬ CallStands taken (rewritten e) →
            exec .forecastRequest s =
              .next { s with unit := { evaluates i (back e) with arbiter.slot := abandoned s.unit.arbiter.slot } })
        ∧ (e.service = .granted ∨ e.service = .riding → ∀ h : Grant, s.unit.arbiter.slot = .active h →
            (e.approach = f.approach → Fits taken h (HoldsGrant h i) (rewritten e) →
              exec .forecastRequest s = .next { s with unit := writes i (rewritten e) })
            ∧ (e.approach ≠ f.approach ∨ ¬ Fits taken h (HoldsGrant h i) (rewritten e) →
                LeavesGrant .forecastRequest s taken h i e (rewritten e))))
    ∧ (NoEntry s.unit f.key → holds →
        (∀ i, LowestEmpty s.unit i → exec .forecastRequest s = .next { s with unit := evaluates i created })
        ∧ ((∀ i : SlotIx, entryIn s.unit i ≠ none) →
            (∀ v : SlotIx, ForecastVictim s.unit v →
              exec .forecastRequest s =
                .next { s with unit := count .tableEvicted { evaluates v created with table.evict := v + 1 } })
            ∧ ((∀ i e, ¬ WaitingIn s.unit .forecast i e) →
                exec .forecastRequest s = .next { s with unit := count .forecastDiscarded taken })))

/-- INVALIDATION_REQUEST: it removes the FORECAST entry of its key with FORECAST_INVALIDATED counted, the Grant Arbiter
acting first for an OFFERED entry or a member; the key does not enter recent departures and no frame is requested. A
CONFIRMED entry, or none, is left as it is, uncounted (R24). -/
def Obligations.InvalidationRemovesForecasts : Prop :=
  ∀ (s : State) (k : Key) (rq : List TableRequest), Active s → s.unit.table.requests = .invalidation k :: rq →
    let taken : Bn24 := { s.unit with table.requests := rq }
    let removed := fun (i : SlotIx) (e : Entry) =>
      { taken with table.slots := s.unit.table.slots.set i none
                   arbiter.slot :=
                    if e.service = .offered then abandoned s.unit.arbiter.slot else s.unit.arbiter.slot }
    (NoEntry s.unit k → exec .invalidationRequest s = .next { s with unit := taken })
    ∧ ∀ (i : SlotIx) (e : Entry), HoldsKey s.unit k i e →
        (e.confirmation = .confirmed → exec .invalidationRequest s = .next { s with unit := taken })
        ∧ (e.confirmation = .forecast → e.service = .waiting ∨ e.service = .armed ∨ e.service = .offered →
            exec .invalidationRequest s = .next { s with unit := count .forecastInvalidated (removed i e) })
        ∧ (e.confirmation = .forecast → e.service = .granted ∨ e.service = .riding →
            ∃ t : State, exec .invalidationRequest s = .next t ∧ entryIn t.unit i = none
              ∧ t.unit.table.recent = s.unit.table.recent ∧ t.unit.handler = s.unit.handler
              ∧ counterOf .forecastInvalidated t.unit = satInc (counterOf .forecastInvalidated s.unit)
              ∧ (∀ g, t.unit.arbiter.slot = .active g → { slot := i, key := k } ∉ g.members))

/-- The table's timers. ENTRY_EXPIRY removes an entry once local time is later than its window end plus the stale limit,
counting BUS_MISSED (CONFIRMED) or FORECAST_UNCONFIRMED, and UNTIMED_EXPIRY a FORECAST entry without a window once its age
exceeds the untimed life; the offer of an OFFERED entry is abandoned and a member leaves its grant first; no frame is
requested. Before that, and on an empty slot, they have no effect. RECENT_DEPARTURE_LAPSE leaves the records of 1,200 ds or
less. That a timer's command has no effect before its time is the model's choice (assumption 12). -/
def Obligations.TableTimersRemoveWhatHasExpired : Prop :=
  (∀ (s : State) (i : SlotIx) (e : Entry), Active s → entryIn s.unit i = some e →
    let removed : Bn24 :=
      { s.unit with table.slots := s.unit.table.slots.set i none
                    arbiter.slot :=
                      if e.service = .offered then abandoned s.unit.arbiter.slot else s.unit.arbiter.slot }
    let expires := fun (c : Instr) (counter : Counter) =>
      (e.service = .waiting ∨ e.service = .armed ∨ e.service = .offered →
        exec c s = .next { s with unit := count counter removed })
      ∧ (∀ g : Grant, e.service = .granted ∨ e.service = .riding → s.unit.arbiter.slot = .active g →
          ∃ t : State, exec c s = .next t ∧ entryIn t.unit i = none ∧ t.unit.table.recent = s.unit.table.recent
            ∧ t.unit.handler = s.unit.handler ∧ counterOf counter t.unit = satInc (counterOf counter s.unit)
            ∧ ∀ h : Grant, t.unit.arbiter.slot = .active h → { slot := i, key := e.key } ∉ h.members)
    (∀ w ∈ e.window,
      (later s.unit.localTime (w.stop + ds s.unit.loader.inForce.params.staleLimit) = true →
        (e.confirmation = .confirmed → expires (.entryExpiry i) .busMissed)
        ∧ (e.confirmation = .forecast → expires (.entryExpiry i) .forecastUnconfirmed))
      ∧ (later s.unit.localTime (w.stop + ds s.unit.loader.inForce.params.staleLimit) = false →
          exec (.entryExpiry i) s = .next s)
      ∧ exec (.untimedExpiry i) s = .next s)
    ∧ (e.window = none → e.confirmation = .forecast →
        (age s.unit.localTime e.updated > (s.unit.loader.inForce.params.untimedLife : Int) →
          expires (.untimedExpiry i) .forecastUnconfirmed)
        ∧ (age s.unit.localTime e.updated ≤ (s.unit.loader.inForce.params.untimedLife : Int) →
            exec (.untimedExpiry i) s = .next s)
        ∧ exec (.entryExpiry i) s = .next s))
  ∧ (∀ (s : State) (i : SlotIx), Active s → entryIn s.unit i = none →
      exec (.entryExpiry i) s = .next s ∧ exec (.untimedExpiry i) s = .next s)
  ∧ (∀ s : State, Active s → exec .recentDepartureLapse s = .next { s with unit.table.recent := liveRecent s.unit })

/-! ### The Service Evaluator -/

/-- EVALUATION of a WAITING or ARMED entry, whatever the grant slot holds: HOLD, RIDES and WAIT leave it WAITING with no
decision; EXTEND and EARLY make it ARMED with the amount rounded up to a multiple of 10 ds, whole within the limit of the
approach, EARLY also partial at the limit. A declined mark of another class than the view's is cleared. An entry that is not
held and fits an active grant with fewer than 4 members is proposed to the arbiter as a rider in the same write. (On a FREE
slot an entry that goes from WAITING to ARMED brings a selection: EvaluationsReachTheArbiter.) -/
def Obligations.EvaluationsWriteTheirOutcome : Prop :=
  ∀ (s : State) (i : SlotIx) (e : Entry) (rq : List TableRequest),
    Active s → s.unit.table.requests = .evaluation { slot := i, key := e.key } :: rq → entryIn s.unit i = some e →
    e.service = .waiting ∨ e.service = .armed →
    let u := s.unit
    let rider : List EntryRef :=
      match u.arbiter.slot with
      | .active g => if g.members.length < 4 ∧ fitsGrant u g false e = true then [{ slot := i, key := e.key }] else []
      | .free => []
      | .offered _ => []
    let writes := fun (service : Service) (decision : Option Decision) (mark : Option SignalClass) (joins : List EntryRef) =>
      exec .evaluation s = .next { s with unit.table.requests := rq, unit.arbiter.joins := u.arbiter.joins ++ joins
                                          unit.table.slots := u.table.slots.set i (some
                                            { e with service := service, decision := decision, declined := mark }) }
    let arms := fun d : Decision => u.arbiter.slot ≠ .free ∨ e.service = .armed → writes .armed (some d) none rider
    (phaseOf u e.approach = none → writes .waiting none e.declined [])
    ∧ ∀ v : PhaseRecord, phaseOf u e.approach = some v →
        let cls := classOf v.state
        let mark := if e.declined = some cls then e.declined else none
        let held := HeldBack u e v
        (held → writes .waiting none mark [])
        ∧ (¬ held → ∀ w ∈ e.window, ∀ r ∈ approachRecord u e.approach,
            let green := u.localTime + ds (agedTime u.localTime v.received v.toChange)
            let next := u.localTime + ds (agedTime u.localTime v.received v.toNextGreen)
            let need := ((timeDiff w.stop green + u.loader.inForce.params.margin).toNat + 9) / 10 * 10
            let advance := ((-timeDiff w.start next).toNat + 9) / 10 * 10
            (v.state = .green → timeDiff w.stop green ≤ 0 → writes .waiting none none rider)
            ∧ (v.state = .green → 0 < timeDiff w.stop green → need ≤ r.eMax →
                arms { kind := .extend, amount := need, isPartial := false })
            ∧ (v.state = .green → 0 < timeDiff w.stop green → r.eMax < need → writes .waiting none none rider)
            ∧ (v.state ≠ .green → 0 ≤ timeDiff w.start next → writes .waiting none none rider)
            ∧ (v.state ≠ .green → timeDiff w.start next < 0 → advance ≤ r.tMax →
                arms { kind := .early, amount := advance, isPartial := false })
            ∧ (v.state ≠ .green → timeDiff w.start next < 0 → r.tMax < advance → 10 ≤ r.tMax →
                arms { kind := .early, amount := r.tMax, isPartial := true })
            ∧ (v.state ≠ .green → timeDiff w.start next < 0 → r.tMax = 0 → writes .waiting none none rider))

/-- The amounts of decisions: whatever an evaluation decides is a multiple of 10 ds between 10 and the approach's limit
for its kind, on a configuration whose limits are multiples of 10, as every loaded one's are. -/
def Obligations.DecidedAmountsAreWithinTheLimits : Prop :=
  ∀ (u : Bn24) (e : Entry) (d : Decision),
    (∀ (a : ApproachIx) (r : ApproachRecord), approachRecord u a = some r → r.tMax % 10 = 0) → verdictOf u e = .call d →
    ∃ r : ApproachRecord, approachRecord u e.approach = some r ∧ r.enabled = true ∧ 1 ≤ e.grade ∧ d.amount % 10 = 0
      ∧ 10 ≤ d.amount ∧ d.amount ≤ (match d.kind with | .extend => r.eMax | .early => r.tMax)
      ∧ (d.isPartial = true → d.kind = .early ∧ d.amount = r.tMax)

/-- A selection offers the best ARMED entry (highest grade, then earliest window start, then lowest slot): the entry
becomes OFFERED and keeps its decision, the slot OFFERED with the next request id and a reply wait of 10 ds, a CALL is
handed to the link and CALLS_OFFERED counted. With no ARMED entry, or while the slot is taken or the controller silent,
nothing happens. That an entry which an update has moved to another approach since its decision is offered with that decision all
the same is the model's choice (assumption 27). -/
def Obligations.SelectionOffersTheBestEntry : Prop :=
  ∀ u : Bn24,
    ((u.arbiter.slot ≠ .free ∨ u.loader.run ≠ .running ∨ u.controller.silent = true
        ∨ ∀ i, ∀ e ∈ entryIn u i, e.service ≠ .armed) → selection u = u)
    ∧ ∀ (i : SlotIx) (e : Entry) (d : Decision),
        u.arbiter.slot = .free → u.loader.run = .running → u.controller.silent = false →
        entryIn u i = some e → e.service = .armed → e.decision = some d →
        (∀ j, ∀ f ∈ entryIn u j, f.service = .armed → f.decision ≠ none → j ≠ i →
          f.grade < e.grade ∨ (f.grade = e.grade ∧
            ((j < i ∧ ∃ w ∈ e.window, ∃ x ∈ f.window, earlier w.start x.start = true)
              ∨ (i < j ∧ ∀ w ∈ e.window, ∀ x ∈ f.window, earlier x.start w.start = false)))) →
        ∃ t : Bn24,
          selection u = count .callsOffered t ∧ t.table = { u.table with
              slots := u.table.slots.set i (some { e with service := .offered }) }
            ∧ t.arbiter = { u.arbiter with
                slot := .offered { id := u.arbiter.nextId, kind := d.kind, amount := d.amount, isPartial := d.isPartial
                                   approach := e.approach, entry := some { slot := i, key := e.key }
                                   replyEnd := u.localTime + 10 }
                nextId := if u.arbiter.nextId = 255 then 1 else u.arbiter.nextId + 1 }
            ∧ ((u.controller.sending = none → u.controller.waiting = []) →
                linkMessages t = linkMessages u ++ [.call u.arbiter.nextId e.approach d.kind d.amount])
            ∧ { t with table := u.table, arbiter := u.arbiter, controller.sending := none, controller.waiting := [] }
                = { u with controller.sending := none, controller.waiting := [] }

/-- EVALUATION on a FREE slot of an entry without a declined mark, or with one of another class than its view's, which is
cleared in the same write: one that goes from WAITING to ARMED brings a selection in that write; one that stays ARMED with a
replaced decision brings none. EVALUATION while a grant is ACTIVE: an entry that is not held and fits
the grant, with fewer than 4 members in it, is written as decided and then proposed to the arbiter as a rider; a held
entry is not. An OFFERED, GRANTED or RIDING entry, a gone entry and a slot of another key end the evaluation without
effect. -/
def Obligations.EvaluationsReachTheArbiter : Prop :=
  (∀ (s : State) (i : SlotIx) (e : Entry) (d : Decision) (rq : List TableRequest),
      Active s → s.unit.table.requests = .evaluation { slot := i, key := e.key } :: rq → entryIn s.unit i = some e →
      (∀ v : PhaseRecord, phaseOf s.unit e.approach = some v → e.declined ≠ some (classOf v.state)) →
      s.unit.arbiter.slot = .free → verdictOf s.unit e = .call d →
      let written : Bn24 :=
        { s.unit with table.requests := rq
                      table.slots := s.unit.table.slots.set i (some
                        { e with service := .armed, decision := some d, declined := none }) }
      (e.service = .armed → exec .evaluation s = .next { s with unit := written })
      ∧ (e.service = .waiting → exec .evaluation s = .next { s with unit := selection written }
          ∧ ∃ o : Offer, (selection written).arbiter.slot = .offered o))
  ∧ (∀ (s : State) (r : EntryRef) (rq : List TableRequest),
      Active s → s.unit.table.requests = .evaluation r :: rq →
      ((∀ e, entryIn s.unit r.slot = some e → e.key = r.key →
          e.service = .offered ∨ e.service = .granted ∨ e.service = .riding) →
        exec .evaluation s = .next { s with unit.table.requests := rq })
      ∧ ∀ (e : Entry) (g : Grant), entryIn s.unit r.slot = some e → e.key = r.key →
          e.service = .waiting ∨ e.service = .armed → s.unit.arbiter.slot = .active g →
          let written : Bn24 :=
            { s.unit with table.requests := rq, table.slots := s.unit.table.slots.set r.slot (some (writtenEntry s.unit e)) }
          (evaluationVerdict s.unit e ≠ .hold → g.members.length < 4 → fitsGrant s.unit g false e = true →
            exec .evaluation s =
              .next { s with unit := { written with arbiter.joins := s.unit.arbiter.joins ++ [r] } })
          ∧ (evaluationVerdict s.unit e = .hold ∨ 4 ≤ g.members.length ∨ fitsGrant s.unit g false e = false →
              exec .evaluation s = .next { s with unit := written }))

/-! ### The Grant Arbiter -/

/-- JOIN_REQUEST: a WAITING or ARMED entry that fits the grant active when the request is taken (for EXTEND its window end plus the margin not later
than the service edge; for EARLY its window start from the service edge to before the recorded green start) becomes the
last of at most 4 members: RIDING, without a decision, served. Any test failing, the request is dropped and nothing else
changes. (The end of a grant drops what waits to join it, so a request is never of an ended grant: MembersLeaveTheGrant,
DeadlineEndsTheGrant, ControllerSilence and EveryStepKeepsEntriesAndGrantInAgreement.) -/
def Obligations.JoinRequestsAdmitRiders : Prop :=
  ∀ (s : State) (r : EntryRef) (rest : List EntryRef), Active s → s.unit.arbiter.joins = r :: rest →
    let dropped := exec .joinRequest s = .next { s with unit.arbiter.joins := rest }
    ((∀ g, s.unit.arbiter.slot ≠ .active g) → dropped)
    ∧ ((∀ e, entryIn s.unit r.slot = some e → e.key = r.key →
        e.service = .offered ∨ e.service = .granted ∨ e.service = .riding ∨ e.window = none) → dropped)
    ∧ ∀ (g : Grant) (e : Entry) (w : Window),
        s.unit.arbiter.slot = .active g → entryIn s.unit r.slot = some e → e.key = r.key → e.window = some w →
        e.service = .waiting ∨ e.service = .armed →
        let margin := s.unit.loader.inForce.params.margin
        let fits := 1 ≤ e.grade ∧ e.approach = g.approach
          ∧ ((g.kind = .extend ∧ timeDiff (w.stop + ds margin) g.edge ≤ 0)
              ∨ (g.kind = .early ∧ timeDiff g.edge w.start ≤ 0 ∧ ∃ n ∈ g.greenStart, timeDiff w.start n < 0))
        (fits → g.members.length < 4 →
          exec .joinRequest s =
            .next { s with unit.arbiter.joins := rest
                           unit.arbiter.slot := .active { g with members := g.members ++ [r] }
                           unit.table.slots := s.unit.table.slots.set r.slot (some
                            { e with service := .riding, decision := none, served := true }) })
        ∧ (¬ fits ∨ 4 ≤ g.members.length → dropped)

/-- CONTROLLER_MESSAGE_RECEIVED, an ACCEPT of the current id of an offer that is not abandoned: CALLS_ACCEPTED is counted
and the slot becomes ACTIVE with the offered entry as its one member, GRANTED and served; the service edge, the recorded
green start and the deadline are fixed from the aged phase view, the amount, and the holder's window end plus margin and
grace. Where the approach has no phase view, the reference time of the edge is left open (assumption 24). -/
def Obligations.AcceptBeginsAGrant : Prop :=
  ∀ (s : State) (o : Offer) (r : EntryRef) (e : Entry) (w : Window) (check : Byte),
    Running s → s.unit.controller.silent = false → s.unit.arbiter.slot = .offered o → o.entry = some r → o.id ≠ 0 →
    entryIn s.unit r.slot = some e → e.key = r.key → e.window = some w → SumsToZero [0x42, o.id] check →
    let now := s.unit.localTime
    let accepts := fun reference : Time =>
      let grant : Grant :=
        { id := o.id, kind := o.kind, amount := o.amount, isPartial := o.isPartial, approach := o.approach, members := [r]
          edge := if o.kind = .extend then reference + ds o.amount else reference - ds o.amount
          greenStart := if o.kind = .extend then none else some reference
          deadline := w.stop + ds (s.unit.loader.inForce.params.margin + s.unit.loader.inForce.params.grace) }
      let u : Bn24 :=
        { s.unit with
          controller.framing := .hunting, controller.silenceStart := some now, arbiter.slot := .active grant
          table.slots := s.unit.table.slots.set r.slot (some { e with service := .granted, served := true }) }
      exec (.controllerMessageReceived [0x42, o.id] check) s = .next { s with unit := count .callsAccepted u }
    (∀ v : PhaseRecord, phaseOf s.unit o.approach = some v →
      (o.kind = .extend → v.state = .green → accepts (now + ds (agedTime now v.received v.toChange)))
      ∧ (o.kind = .extend → v.state ≠ .green → accepts now)
      ∧ (o.kind = .early → v.state = .amber ∨ v.state = .red → accepts (now + ds (agedTime now v.received v.toNextGreen)))
      ∧ (o.kind = .early → v.state = .green ∨ v.state = .dark → accepts now))
    ∧ (phaseOf s.unit o.approach = none → ∃ reference : Time, accepts reference)

/-- An ACCEPT of the current id of an abandoned offer counts CALLS_ACCEPTED, is answered with a CLEAR of the id at once,
and frees the slot with no entry changed; a selection then follows (R84). Replies that end no offer: an ACCEPT while FREE,
or of an id that is neither the offer's nor the grant's, is answered with a CLEAR of its own id and counted LATE_ACCEPTS,
the slot unchanged; an ACCEPT of the grant's id, a DECLINE while FREE or ACTIVE, and a DECLINE of another id are ignored.
Each restarts the silence timer, and ends a silence (R87). -/
def Obligations.RepliesToNoStandingOffer : Prop :=
  (∀ (s : State) (o : Offer) (check : Byte),
      Running s → s.unit.controller.silent = false → s.unit.arbiter.slot = .offered o → o.entry = none → o.id ≠ 0 →
      SumsToZero [0x42, o.id] check → LinkOk s.unit →
      ∃ t : Bn24,
        exec (.controllerMessageReceived [0x42, o.id] check) s = .next { s with unit := selection t }
          ∧ t.arbiter = { s.unit.arbiter with slot := .free } ∧ t.table = s.unit.table
          ∧ linkMessages t = linkMessages s.unit ++ [.clear o.id]
          ∧ t.maint = (count .callsAccepted s.unit).maint
          ∧ { t with arbiter := s.unit.arbiter, maint := s.unit.maint, controller.sending := none, controller.waiting := [] }
              = { s.unit with controller.framing := .hunting, controller.silenceStart := some s.unit.localTime
                              controller.sending := none, controller.waiting := [] })
  ∧ (∀ (s : State) (id check : Byte),
      Running s → id ≠ 0 → LinkOk s.unit →
      let heard : Bn24 :=
        { s.unit with
          controller.framing := .hunting, controller.silent := false, controller.silenceStart := some s.unit.localTime
          table.requests := s.unit.table.requests
            ++ (if s.unit.controller.silent = true then evaluationsOf (fun _ => true) s.unit else []) }
      let late := SumsToZero [0x42, id] check → ∃ t : Bn24,
        exec (.controllerMessageReceived [0x42, id] check) s = .next { s with unit := count .lateAccepts t }
          ∧ linkMessages t = linkMessages s.unit ++ [.clear id]
          ∧ { t with controller.sending := none, controller.waiting := [] }
              = { heard with controller.sending := none, controller.waiting := [] }
      let ignored := SumsToZero [0x43, id] check →
        exec (.controllerMessageReceived [0x43, id] check) s = .next { s with unit := heard }
      (s.unit.arbiter.slot = .free → late ∧ ignored)
      ∧ (∀ o, s.unit.arbiter.slot = .offered o → o.id ≠ id → late ∧ ignored)
      ∧ (∀ g, s.unit.arbiter.slot = .active g → ignored ∧ (g.id ≠ id → late)
          ∧ (g.id = id → SumsToZero [0x42, id] check →
              exec (.controllerMessageReceived [0x42, id] check) s = .next { s with unit := heard })))

/-- A DECLINE of the current id, and REPLY_WAIT_EXPIRY once local time has reached the reply wait end, free the slot: the
offered entry goes back to WAITING without a decision, with a declined mark of the class of its approach's signal state (left
open where the approach has no phase view, assumption 24); CALLS_DECLINED counts the decline of an offer that is not abandoned,
REPLY_TIMEOUTS every expiry. A selection follows. No CLEAR is sent. That REPLY_WAIT_EXPIRY has no effect before its time is
the model's choice (assumption 12), and that the expiry of an abandoned offer counts REPLY_TIMEOUTS is read from section 4.5
(assumption 17). -/
def Obligations.DeclineAndTimeoutEndAnOffer : Prop :=
  ∀ (s : State) (o : Offer) (check : Byte), Running s → s.unit.arbiter.slot = .offered o →
    let heard : Bn24 :=
      { s.unit with controller.framing := .hunting, controller.silenceStart := some s.unit.localTime }
    let returned := fun (r : EntryRef) (e : Entry) (mark : SignalClass) =>
      s.unit.table.slots.set r.slot (some { e with service := .waiting, decision := none, declined := some mark })
    let declines := s.unit.controller.silent = false ∧ o.id ≠ 0 ∧ SumsToZero [0x43, o.id] check
    let due := 0 ≤ timeDiff s.unit.localTime o.replyEnd
    let ends := fun (r : EntryRef) (e : Entry) (mark : SignalClass) =>
      (declines → exec (.controllerMessageReceived [0x43, o.id] check) s =
        .next { s with unit := selection { heard with arbiter.slot := .free, table.slots := returned r e mark
                                                      maint := (count .callsDeclined s.unit).maint } })
      ∧ (due → exec .replyWaitExpiry s =
          .next { s with unit := selection { s.unit with arbiter.slot := .free, table.slots := returned r e mark
                                                         maint := (count .replyTimeouts s.unit).maint } })
    (∀ (r : EntryRef) (e : Entry), o.entry = some r → entryIn s.unit r.slot = some e → e.key = r.key →
      (∀ v : PhaseRecord, phaseOf s.unit e.approach = some v → ends r e (if v.state = .green then .green else .notGreen))
      ∧ (phaseOf s.unit e.approach = none → ∃ mark : SignalClass, ends r e mark))
    ∧ (o.entry = none →
        (declines → exec (.controllerMessageReceived [0x43, o.id] check) s =
          .next { s with unit := selection { heard with arbiter.slot := .free } })
        ∧ (due → exec .replyWaitExpiry s =
            .next { s with unit := selection { s.unit with arbiter.slot := .free
                                                           maint := (count .replyTimeouts s.unit).maint } }))
    ∧ (¬ due → exec .replyWaitExpiry s = .next s)

/-- A member that is removed, by CANCEL, CHECK_OUT, INVALIDATION_REQUEST, ENTRY_EXPIRY or UNTIMED_EXPIRY, leaves the grant: a
rider's place closes up; the first rider succeeds a holder, GRANTED with the grant's decision, with no message to the
controller; after the last member a CLEAR of the grant's id is handed over, the slot is FREE, every join request that waits is
dropped, the entries of the grant's approach are evaluated, the leaver, which is being removed, not among them (assumption 22),
and only then a selection may hand over a new CALL. (The same of a member that an update takes out: CheckInsMakeEntries and
ForecastRequestsByTheFirstCase.) -/
def Obligations.MembersLeaveTheGrant : Prop :=
  ∀ (s : State) (i : SlotIx) (e : Entry) (g : Grant),
    Running s → HoldsKey s.unit e.key i e → e.service = .granted ∨ e.service = .riding → s.unit.arbiter.slot = .active g →
    let leaves := fun base v : Bn24 =>
      MemberLeft base g { slot := i, key := e.key } none (grantEvaluations g s.unit) [] v
    let taken := fun (rq : List TableRequest) (ib : List DetectionMessage) =>
      { s.unit with detection.inbox := ib, table.recent := liveRecent s.unit, table.requests := rq }
    let departs := fun (v : Bn24) (sent : List HandlerRequest) =>
      { s with unit := { v with table.recent := recentWith s.unit e.key
                                handler.requests := s.unit.handler.requests ++ sent } }
    (∀ (rq : List TableRequest) (ib : List DetectionMessage), TakesDetection s (.cancel e.key) rq ib →
      ∃ v : Bn24, leaves (taken rq ib) v ∧ exec .cancel s = .next (departs v [.withdraw e.key]))
    ∧ (∀ (p : PointIx) (cls : Fin 4) (late : Int) (rq : List TableRequest) (ib : List DetectionMessage) (r : PointRecord),
        TakesDetection s (.checkOut p e.key cls late) rq ib → pointRecord s.unit p = some r →
        (∀ d ∈ liveRecent s.unit, d.key ≠ e.key) →
        ∃ (v : Bn24) (sent : List HandlerRequest),
          leaves (taken rq ib) v ∧ exec .checkOut s = .next (departs v sent)
            ∧ (ReportsOnward s.unit r.approach → sent = [.passage
                { key := e.key, routeClass := cls, lateness := late
                  chain := if e.served = true then min 15 (e.chain + 1) else 0
                  grade := e.grade, approach := r.approach, checkOut := s.unit.localTime }])
            ∧ (¬ ReportsOnward s.unit r.approach → sent = []))
    ∧ (∀ rq : List TableRequest, s.unit.table.requests = .invalidation e.key :: rq → e.confirmation = .forecast →
        ∃ v : Bn24, leaves (count .forecastInvalidated { s.unit with table.requests := rq }) v
          ∧ exec .invalidationRequest s = .next { s with unit := v })
    ∧ (∀ w ∈ e.window, later s.unit.localTime (w.stop + ds s.unit.loader.inForce.params.staleLimit) = true →
        ∃ v : Bn24, leaves (count (if e.confirmation = .confirmed then .busMissed else .forecastUnconfirmed) s.unit) v
          ∧ exec (.entryExpiry i) s = .next { s with unit := v })
    ∧ (e.window = none → e.confirmation = .forecast →
        age s.unit.localTime e.updated > (s.unit.loader.inForce.params.untimedLife : Int) →
        ∃ v : Bn24, leaves (count .forecastUnconfirmed s.unit) v ∧ exec (.untimedExpiry i) s = .next { s with unit := v })

/-- GRANT_DEADLINE, once local time is later than the deadline: a CLEAR of the grant's id is handed over, every member
goes back to WAITING without a decision, GRANT_OVERRUNS is counted and GRANT_OVERRUN flagged, the slot is freed, every
join request that waits is dropped, the entries of the grant's approach are evaluated, and a selection follows. Before that the command has no effect,
which is the model's choice (assumption 12). -/
def Obligations.DeadlineEndsTheGrant : Prop :=
  ∀ (s : State) (g : Grant), Running s → s.unit.arbiter.slot = .active g → LinkOk s.unit →
    (later s.unit.localTime g.deadline = false → exec .grantDeadline s = .next s)
    ∧ (later s.unit.localTime g.deadline = true →
        ∃ t : Bn24,
          exec .grantDeadline s = .next { s with unit := selection t }
            ∧ linkMessages t = linkMessages s.unit ++ [.clear g.id]
            ∧ (∀ i : SlotIx, entryIn t i = (entryIn s.unit i).map (fun e =>
                if { slot := i, key := e.key } ∈ g.members then { e with service := .waiting, decision := none } else e))
            ∧ t.table.requests = s.unit.table.requests ++ evaluationsOf (fun e => decide (e.approach = g.approach)) t
            ∧ t.arbiter = { s.unit.arbiter with slot := .free, joins := [] }
            ∧ t.maint = (flag .grantOverrun (count .grantOverruns s.unit)).maint
            ∧ { t with arbiter := s.unit.arbiter, maint := s.unit.maint, table.slots := s.unit.table.slots
                       table.requests := s.unit.table.requests, controller.sending := none, controller.waiting := [] }
                = { s.unit with controller.sending := none, controller.waiting := [] })

/-! ### The Controller Port -/

/-- CONTROLLER_MESSAGE_RECEIVED, a PHASE STATUS: a valid one restarts the silence timer, replaces its approach's record
whole with the present as receive time, and requests the evaluations of that approach's entries; in a silence it first
ends it, with the evaluations of every WAITING or ARMED entry. One with a bad check, approach or state counts LINK_BAD and
nothing else. CONTROLLER_MESSAGE_RECEIVED: a message with a bad check, an unknown kind (those of CALL and CLEAR among
them), a length that is not its kind's, or an ACCEPT or DECLINE of id 0, is dropped with LINK_BAD counted. Outside RUNNING
it is discarded uncounted. The evaluations that a phase status, a grant's end or a silence's end requests: one for each
WAITING or ARMED entry that the test selects, in ascending slot order. -/
def Obligations.ControllerMessagesAreChecked : Prop :=
  ((∀ (s : State) (a : ApproachIx) (st : SignalState) (ap code c1 c0 n1 n0 fl check : Byte), Running s →
        let payload : List Byte := [0x41, ap, code, c1, c0, n1, n0, fl]
        let view : PhaseRecord :=
          { state := st, toChange := (c1 ++ c0 : Half).toNat, toNextGreen := (n1 ++ n0 : Half).toNat, inhibit := fl.getLsbD 0
            received := s.unit.localTime }
        let onApproach := evaluationsOf (fun e => decide (e.approach = a)) s.unit
        (SumsToZero payload check → ap.toNat = a.val + 1 →
          code.toNat = (match st with | .green => 1 | .amber => 2 | .red => 3 | .dark => 4) →
          exec (.controllerMessageReceived payload check) s =
            .next { s with unit.controller.framing := .hunting, unit.controller.silent := false
                           unit.controller.silenceStart := some s.unit.localTime
                           unit.controller.phase := s.unit.controller.phase.set a (some view)
                           unit.table.requests := s.unit.table.requests
                            ++ (if s.unit.controller.silent = true then evaluationsOf (fun _ => true) s.unit else [])
                            ++ onApproach })
        ∧ (¬ SumsToZero payload check ∨ ap.toNat = 0 ∨ 4 < ap.toNat ∨ code.toNat = 0 ∨ 4 < code.toNat →
            exec (.controllerMessageReceived payload check) s =
              .next { s with unit := count .linkBad { s.unit with controller.framing := .hunting } }))
    ∧ (∀ (s : State) (payload : List Byte) (check : Byte), Active s →
        (s.unit.loader.run = .running →
          (¬ SumsToZero payload check ∨ (∀ k ∈ payload.head?, k ≠ 0x41 ∧ k ≠ 0x42 ∧ k ≠ 0x43)
            ∨ (payload.head? = some 0x41 ∧ payload.length ≠ 8) ∨ (payload.head? = some 0x42 ∧ payload.length ≠ 2)
            ∨ (payload.head? = some 0x43 ∧ payload.length ≠ 2) ∨ payload = [0x42, 0] ∨ payload = [0x43, 0]) →
          exec (.controllerMessageReceived payload check) s =
            .next { s with unit := count .linkBad { s.unit with controller.framing := .hunting } })
        ∧ (s.unit.loader.run ≠ .running →
            exec (.controllerMessageReceived payload check) s = .next s ∧ exec (.detMessageReceived payload check) s = .next s)))
  ∧ (∀ (u : Bn24) (p : Entry → Bool), ∃ refs : List EntryRef,
      evaluationsOf p u = refs.map .evaluation ∧ refs.Pairwise (fun a b => a.slot < b.slot)
        ∧ ∀ r : EntryRef, r ∈ refs ↔ ∃ e, entryIn u r.slot = some e ∧ e.key = r.key ∧ p e = true
            ∧ (e.service = .waiting ∨ e.service = .armed))

/-- CONTROLLER_SILENCE, 30 ds after the timer's last start: the silence is counted and flagged, the timer stops, and by
the slot: FREE stays; an offer ends uncounted, its entry WAITING without a decision or a new mark; a grant ends with a
CLEAR, its members WAITING, the join requests that wait dropped and its approach's entries evaluated. The silence request then goes to the table. Earlier the
command has no effect. SILENCE_REQUEST: one request for the whole table, by which every ARMED entry returns to WAITING
without its decision and no other entry changes. That CONTROLLER_SILENCE has no effect before its time is the model's
choice (assumption 12). -/
def Obligations.ControllerSilence : Prop :=
  (∀ (s : State) (since : Time), Running s → s.unit.controller.silent = false →
      s.unit.controller.silenceStart = some since →
      let silent : Bn24 :=
        { s.unit with controller.silent := true, controller.silenceStart := none
                      maint := (flag .controllerSilent (count .controllerSilences s.unit)).maint }
      let rq := s.unit.table.requests
      (age s.unit.localTime since < 30 → exec .controllerSilence s = .next s)
      ∧ (30 ≤ age s.unit.localTime since →
          (s.unit.arbiter.slot = .free →
            exec .controllerSilence s = .next { s with unit := { silent with table.requests := rq ++ [.silence] } })
          ∧ (∀ o : Offer, s.unit.arbiter.slot = .offered o →
              (o.entry = none → exec .controllerSilence s =
                .next { s with unit := { silent with table.requests := rq ++ [.silence], arbiter.slot := .free } })
              ∧ (∀ (r : EntryRef) (e : Entry), o.entry = some r → entryIn s.unit r.slot = some e → e.key = r.key →
                  exec .controllerSilence s =
                    .next { s with unit := { silent with
                      table.requests := rq ++ [.silence], arbiter.slot := .free
                      table.slots := s.unit.table.slots.set r.slot (some
                        { e with service := .waiting, decision := none }) } }))
          ∧ (∀ g : Grant, s.unit.arbiter.slot = .active g → LinkOk s.unit →
              ∃ t : Bn24,
                exec .controllerSilence s = .next { s with unit := t }
                  ∧ linkMessages t = linkMessages s.unit ++ [.clear g.id]
                  ∧ (∀ i : SlotIx, entryIn t i = (entryIn s.unit i).map (fun e =>
                      if { slot := i, key := e.key } ∈ g.members then { e with service := .waiting, decision := none }
                      else e))
                  ∧ t.table.requests = rq ++ evaluationsOf (fun e => decide (e.approach = g.approach)) t ++ [.silence]
                  ∧ t.arbiter = { s.unit.arbiter with slot := .free, joins := [] } ∧ t.maint = silent.maint
                  ∧ { t with arbiter := s.unit.arbiter, table.slots := s.unit.table.slots, table.requests := rq
                             controller.sending := none, controller.waiting := [] }
                      = { silent with controller.sending := none, controller.waiting := [] })))
  ∧ (∀ (s : State) (rq : List TableRequest), Active s → s.unit.table.requests = .silence :: rq →
      ∃ slots : Vector (Option Entry) 24,
        exec .silenceRequest s = .next { s with unit.table.requests := rq, unit.table.slots := slots }
          ∧ ∀ i : SlotIx, slots[i] = (entryIn s.unit i).map (fun e =>
              if e.service = .armed then { e with service := .waiting, decision := none } else e))

/-- The transmitter: CONTROLLER_MESSAGE_SENT ends the message being sent and begins the one handed next, in every run
state, so that what was handed goes out whole and in order; the bytes of a CALL and of a CLEAR are those of section 11.2,
their check byte bringing the sum to 0. Each byte is sent with a start bit, its data bits with the least significant first,
and a stop bit, and read in that order it is the byte again (R202). -/
def Obligations.LinkSendsInOrder : Prop :=
  (∀ (s : State) (m : LinkMessage), Active s → s.unit.controller.sending = some m →
    ∃ t : State, exec .controllerMessageSent s = .next t ∧ linkMessages t.unit = (linkMessages s.unit).tail
      ∧ t = { s with unit.controller.sending := s.unit.controller.waiting.head?
                     unit.controller.waiting := s.unit.controller.waiting.tail })
  ∧ (∀ (id : Byte) (a : ApproachIx) (kind : CallKind) (amount : Nat),
      ∃ check : Byte,
        (LinkMessage.call id a kind amount).bytes =
          [0xD2, 6, 0x51, id, BitVec.ofNat 8 (a.val + 1), (if kind = .extend then 1 else 2),
           BitVec.ofNat 8 (amount / 256), BitVec.ofNat 8 amount, check]
        ∧ SumsToZero [0x51, id, BitVec.ofNat 8 (a.val + 1), (if kind = .extend then 1 else 2),
           BitVec.ofNat 8 (amount / 256), BitVec.ofNat 8 amount] check)
  ∧ (∀ id : Byte, ∃ check : Byte, (LinkMessage.clear id).bytes = [0xD2, 2, 0x52, id, check] ∧ SumsToZero [0x52, id] check)
  ∧ (∀ (u : Bn24) (m : LinkMessage), u.controller.sending = some m →
      transmittedBits u = some (m.bytes.flatMap (fun b =>
        [false, b.getLsbD 0, b.getLsbD 1, b.getLsbD 2, b.getLsbD 3, b.getLsbD 4, b.getLsbD 5, b.getLsbD 6, b.getLsbD 7, true])))
  ∧ ∀ b : Byte, serialByte (((serialBits b).drop 1).take 8) = b

/-! ### The Corridor Port -/

/-- QUIET_WAIT_END: with no frame being decoded, the port in QUIET_WAIT becomes IDLE once the line is recessive 15 slot times
after a falling edge seen in the wait, or has been recessive for 200 since the wait began or since the last edge; a line held
dominant never ends it; else only the line's timing moves on. In another state, or while a frame is decoded, there is no effect.
START_MARK_DETECTED and PULSE_NOT_FRAME on a port that watches the line and decodes nothing, and FRAME_MALFORMED: a falling edge
restarts the line's timing and is remembered in QUIET_WAIT; a start mark begins decoding, IDLE going to RECEIVE; a malformed
frame ends it, RECEIVE going to IDLE, counted FRAME_CHECK_ERRORS unless it is the remainder after a line fault, which need have
no edge, so that the next report tells one. A port that is OFF or drives takes none of them. How the two commands that end a wait report what passed on the line (assumption 8), a
FRAME_MALFORMED whose start was not stepped (assumption 6), a bad remainder after a line fault (assumption 16), and the states
that take no command (assumption 12) are the model's choices. -/
def Obligations.LineTimingAndDecoding : Prop :=
  (∀ (s : State) (report : LineReport), Active s →
      let total := min 200 ((if report.edge then 0 else s.unit.port.lineTimer.getD 0) + report.slots)
      let quiet := match report.level with
        | .dominant => 0
        | .recessive n =>
          min 200 (if n < report.slots then n else (if report.edge then 0 else s.unit.port.recessive) + report.slots)
      let seen := s.unit.port.edgeSeen || report.edge
      let ended := (seen = true ∧ 15 ≤ total ∧ report.level ≠ .dominant) ∨ quiet = 200
      (s.unit.port.state = .quietWait → s.unit.port.decoding = none →
        (ended →
          exec (.quietWaitEnd report) s =
            .next { s with unit.port.state := .idle, unit.port.lineTimer := some total, unit.port.recessive := quiet
                           unit.port.edgeSeen := seen })
        ∧ (¬ ended →
            exec (.quietWaitEnd report) s =
              .next { s with unit.port.lineTimer := some total, unit.port.recessive := quiet, unit.port.edgeSeen := seen }))
      ∧ (s.unit.port.state ≠ .quietWait ∨ s.unit.port.decoding ≠ none → exec (.quietWaitEnd report) s = .next s))
  ∧ (∀ s : State, Active s →
      let p := s.unit.port
      let seen := p.edgeSeen || decide (p.state = .quietWait)
      (p.state = .off ∨ p.state = .contend ∨ p.state = .send →
        exec .startMarkDetected s = .next s ∧ exec .pulseNotFrame s = .next s ∧ exec .frameMalformed s = .next s
          ∧ ∀ header payload check, exec (.frameReceived header payload check) s = .next s)
      ∧ (p.state ≠ .off → p.state ≠ .contend → p.state ≠ .send → p.decoding = none →
          exec .startMarkDetected s =
              .next { s with unit.port.state := if p.state = .idle then .receive else p.state
                             unit.port.decoding := some { startMark := s.unit.localTime, afterFault := false }
                             unit.port.lineTimer := some 0, unit.port.recessive := 0, unit.port.edgeSeen := seen }
            ∧ exec .pulseNotFrame s =
                .next { s with unit.port.lineTimer := some 0, unit.port.recessive := 0, unit.port.edgeSeen := seen })
      ∧ (p.state ≠ .off → p.state ≠ .contend → p.state ≠ .send → p.decoding ≠ none →
          exec .startMarkDetected s = .next s ∧ exec .pulseNotFrame s = .next s)
      ∧ (p.state ≠ .off → p.state ≠ .contend → p.state ≠ .send →
          let u : Bn24 :=
            { s.unit with port.state := if p.state = .receive then .idle else p.state, port.decoding := none }
          let anew : Bn24 := { u with port.lineTimer := some 0, port.recessive := 0, port.edgeSeen := seen }
          ((∃ d ∈ p.decoding, d.afterFault = true) → exec .frameMalformed s = .next { s with unit := u })
          ∧ (¬ (∃ d ∈ p.decoding, d.afterFault = true) →
              exec .frameMalformed s = .next { s with unit := count .frameCheckErrors anew })))

/-- ATTEMPT_START in IDLE: on a line that is recessive and 15 slot times from its last falling edge, heads over the send budget
are discarded and counted one after the other, and the first head within it is attempted: it is marked, its header, stamped
payload and check are formed with the present as start mark, and the port enters CONTEND. On a busy line, one held dominant
among them, only the line's timing moves on. The ends of an attempt. ARBITRATION_WON enters SEND. ARBITRATION_LOSS (counted) and
LINE_FAULT (counted) stop driving and decode what is on the line from the attempt's start mark, every frame staying in its
place. Bits read back tell that falling edges were observed, and restart the line's timing; a line fault does not, and the next
report tells it. SEND_COMPLETE counts FRAMES_SENT, the frame leaves the queue, and the port is IDLE, 12 slot times from a free line. In
other states they have no effect. How ATTEMPT_START reports what passed on the line (assumption 8) and the states that take no
command (assumption 12) are the model's choices. -/
def Obligations.AttemptsBeginAndEnd : Prop :=
  (∀ (s : State) (report : LineReport) (late rest : List QueuedFrame) (f : QueuedFrame), Active s →
      let total := min 200 ((if report.edge then 0 else s.unit.port.lineTimer.getD 0) + report.slots)
      let quiet := match report.level with
        | .dominant => 0
        | .recessive n =>
          min 200 (if n < report.slots then n else (if report.edge then 0 else s.unit.port.recessive) + report.slots)
      let isFree := 15 ≤ total ∧ report.level ≠ .dominant
      let overdue := fun g : QueuedFrame => (s.unit.loader.inForce.params.sendBudget : Int) < age s.unit.localTime g.entryTime
      (s.unit.port.state ≠ .idle → exec (.attemptStart report) s = .next s)
      ∧ (s.unit.port.state = .idle → ¬ isFree →
          exec (.attemptStart report) s = .next { s with unit.port.lineTimer := some total, unit.port.recessive := quiet })
      ∧ (s.unit.port.state = .idle → isFree → s.unit.port.queue = late → (∀ g ∈ late, overdue g) →
          let emptied : Bn24 :=
            { s.unit with port.lineTimer := some total, port.recessive := quiet, port.queue := [] }
          exec (.attemptStart report) s = .next { s with unit := countTimes .sendDiscards late.length emptied })
      ∧ (s.unit.port.state = .idle → isFree → s.unit.port.queue = late ++ f :: rest → (∀ g ∈ late, overdue g) →
          ¬ overdue f →
          let header := makeHeader f.urgency f.body.kind f.sender
            (match f.body with | .beacon => 5 | .passage _ => 10 | .withdraw _ => 3)
          let payload := stampedPayload s.unit f.body
          let u : Bn24 :=
            { s.unit with port.state := .contend, port.lineTimer := some total, port.recessive := quiet
                          port.queue := { f with underAttempt := true } :: rest
                          port.attempt := some
                            { start := s.unit.localTime, header := header, payload := payload
                              check := frameCheck header payload } }
          exec (.attemptStart report) s = .next { s with unit := countTimes .sendDiscards late.length u }))
  ∧ (∀ (s : State) (a : Attempt), Active s → s.unit.port.attempt = some a →
      let lost := fun (fault : Bool) =>
        { s.unit with port.state := .receive, port.attempt := none
                      port.queue := s.unit.port.queue.map (fun f => { f with underAttempt := false })
                      port.decoding := some { startMark := a.start, afterFault := fault } }
      let beaten : Bn24 := { lost false with port.lineTimer := some 0, port.recessive := 0 }
      let sent : Bn24 :=
        { s.unit with port.state := .idle, port.attempt := none, port.lineTimer := some 3, port.recessive := 2
                      port.queue := s.unit.port.queue.filter (fun f => !f.underAttempt) }
      (s.unit.port.state = .contend →
        exec .arbitrationWon s =
            .next { s with unit.port.state := .send, unit.port.lineTimer := some 0, unit.port.recessive := 0 }
          ∧ exec .arbitrationLoss s = .next { s with unit := count .arbitrationLosses beaten }
          ∧ exec .lineFault s = .next { s with unit := count .lineFaults (lost true) })
      ∧ (s.unit.port.state = .send →
          exec .sendComplete s = .next { s with unit := count .framesSent sent }
            ∧ exec .lineFault s = .next { s with unit := count .lineFaults (lost true) }))
  ∧ (∀ s : State, Active s →
      (s.unit.port.state ≠ .contend → exec .arbitrationWon s = .next s ∧ exec .arbitrationLoss s = .next s)
      ∧ (s.unit.port.state ≠ .send → exec .sendComplete s = .next s)
      ∧ (s.unit.port.state ≠ .contend → s.unit.port.state ≠ .send → exec .lineFault s = .next s))

/-- FRAME_RECEIVED: a frame with a wrong check, an unknown kind, a length above 12 or not its kind's, or a sender outside
1 to 60 is dropped, counted FRAME_CHECK_ERRORS once. A valid one counts FRAMES_RECEIVED and is delivered: a BEACON with
its start mark to the Corridor Time Unit, a PASSAGE or a WITHDRAW to the handler; but one of the unit's own number is a
clash. What is not counted of the remainder after a line fault is read from the spec (assumption 16). That a frame whose start
was not stepped has the present as its start mark (assumption 6), and that the end of a frame, one with a bad header too,
leaves 3 slot times from its last falling edge on the line timer (assumption 8), are the model's choices. -/
def Obligations.ReceivedFramesAreTestedAndDelivered : Prop :=
  ∀ (s : State) (header check : Half) (payload : List Byte), Active s →
    s.unit.port.state ≠ .off → s.unit.port.state ≠ .contend → s.unit.port.state ≠ .send →
    payload.length = headerLength header →
    let p := s.unit.port
    let u : Bn24 :=
      { s.unit with port.state := if p.state = .receive then .idle else p.state, port.decoding := none
                    port.lineTimer := some 3, port.recessive := 2
                    port.edgeSeen := p.edgeSeen || decide (p.state = .quietWait) }
    let kind := headerKind header
    let sender := headerSender header
    let badLength := (kind = 1 ∧ payload.length ≠ 5) ∨ (kind = 2 ∧ payload.length ≠ 10) ∨ (kind = 3 ∧ payload.length ≠ 3)
      ∨ kind = 0 ∨ 3 < kind
    let valid := ¬ badLength ∧ frameCheck header payload = check ∧ 1 ≤ sender ∧ sender ≤ 60
    let received := fun v : Bn24 => exec (.frameReceived header payload check) s = .next { s with unit := v }
    (badLength → (∃ d ∈ p.decoding, d.afterFault = true) → received u)
    ∧ (badLength → ¬ (∃ d ∈ p.decoding, d.afterFault = true) → received (count .frameCheckErrors u))
    ∧ (¬ badLength → ¬ valid → received (count .frameCheckErrors u))
    ∧ (valid → sender ≠ s.unit.loader.inForce.station →
        let w := count .framesReceived u
        let beacon := beaconOf sender payload (p.decoding.elim s.unit.localTime Decoding.startMark)
        let key : Key := { vehicle := payload.getD 0 0 ++ payload.getD 1 0, trip := payload.getD 2 0 }
        (kind = 1 → received { w with clock.beacons := s.unit.clock.beacons ++ [beacon] })
        ∧ (kind = 2 → received { w with handler.frames := s.unit.handler.frames ++ [.passage (passageOf sender payload)] })
        ∧ (kind = 3 → received { w with handler.frames := s.unit.handler.frames ++ [.withdraw sender key] }))
    ∧ (valid → sender = s.unit.loader.inForce.station →
        received (flag .clash (countTimes .sendDiscards p.queue.length (count .framesReceived
          { u with port.state := .silent, port.queue := [] }))))

/-- The check of a frame: a register that starts at all ones and takes the header bits and then the payload bits in the
order sent, by the polynomial 0x1021 at its most significant end; the check sent is the register, most significant bit
first, formed afresh over the stamped payload of each attempt; a received frame passes this test when the check received is
equal; the nine bytes 0x31 to 0x39 give 0x29B1 (R206). -/
def Obligations.FrameCheckIsTheCyclicRedundancyCheck : Prop :=
  crcBits [] = 0xFFFF
  ∧ (∀ (bits : List Bool) (b : Bool),
      crcBits (bits ++ [b]) =
        (if b ^^ (crcBits bits).msb then (crcBits bits <<< 1) ^^^ 0x1021 else crcBits bits <<< 1))
  ∧ (∀ (header : Half) (payload : List Byte),
      frameCheck header payload =
        crcBits ((List.range 16).map (fun n => header.getLsbD (15 - n))
          ++ payload.flatMap (fun b => (List.range 8).map (fun n => b.getLsbD (7 - n)))))
  ∧ (∀ (u : Bn24) (a : Attempt), u.port.state = .contend ∨ u.port.state = .send → u.port.attempt = some a →
      drivenBits u = some (frameBits a.header a.payload ++ (List.range 16).map (fun n => a.check.getLsbD (15 - n))))
  ∧ (∀ (u : Bn24) (f : QueuedFrame),
      (attemptOf u f).payload = stampedPayload u f.body
        ∧ (attemptOf u f).check = frameCheck (attemptOf u f).header (attemptOf u f).payload)
  ∧ (∀ (header check : Half) (payload : List Byte),
      frameValid header payload check = true ↔
        frameCheck header payload = check ∧ frameValid header payload (frameCheck header payload) = true)
  ∧ crcBits (([0x31, 0x32, 0x33, 0x34, 0x35, 0x36, 0x37, 0x38, 0x39] : List Byte).flatMap (bitsOf 8)) = 0x29B1

/-- Every frame that a unit stamps and sends is valid at its receivers and is read there as what was sent: the header's
fields, a BEACON's corridor time, lock state and reference, a PASSAGE's fields with the departure in corridor time and the
timed flag of the sender's time quality, and a WITHDRAW's key. -/
def Obligations.SentFramesAreReadAsSent : Prop :=
  ∀ (u : Bn24) (f : QueuedFrame), f.urgency < 8 → 1 ≤ f.sender → f.sender ≤ 60 →
    let a := attemptOf u f
    frameValid a.header a.payload a.check = true ∧ headerSender a.header = f.sender ∧ headerUrgency a.header = f.urgency
      ∧ headerLength a.header = a.payload.length
      ∧ (match f.body with
         | .beacon => headerKind a.header = 1 ∧ (u.clock.reference ≤ 60 → ∀ mark : Time,
             beaconOf f.sender a.payload mark =
               { station := f.sender, time := u.localTime + u.clock.offset, lock := u.clock.lock.code
                 reference := u.clock.reference, startMark := mark })
         | .passage p => headerKind a.header = 2 ∧
             (p.chain ≤ 15 → p.next ≤ 60 → -32768 ≤ p.lateness → p.lateness ≤ 32767 →
               passageOf f.sender a.payload =
                 { sender := f.sender, key := p.key, routeClass := p.routeClass, direction := p.direction
                   timed := u.clock.lock ≠ .off ∧ u.clock.lock ≠ .acquiring, chain := p.chain, lateness := p.lateness
                   departure := p.checkOut + u.clock.offset, next := p.next })
         | .withdraw k => headerKind a.header = 3 ∧ halfAt a.payload 0 = k.vehicle ∧ byteAt a.payload 2 = k.trip)

/-- Frames offered to the queue: discarded uncounted while OFF, counted while SILENT; else a frame enters behind those of
its urgency or a smaller value; a BEACON offered while one is queued only moves it with the new entry time; in a queue of
6 the newest frame of the largest urgency value above the newcomer's, not under attempt, gives way, and with none the
newcomer is lost, either counted SEND_DISCARDS. -/
def Obligations.OfferedFramesArePlacedByUrgency : Prop :=
  ∀ (u : Bn24) (body : FrameBody) (n : Nat), QueueOk u →
    let q := u.port.queue
    let new : QueuedFrame :=
      { body := body, urgency := n, entryTime := u.localTime, sender := u.loader.inForce.station, underAttempt := false }
    let among := fun (f : QueuedFrame) (l : List QueuedFrame) =>
      l.filter (fun g => decide (g.urgency ≤ f.urgency)) ++ f :: l.filter (fun g => decide (f.urgency < g.urgency))
    let plain := body ≠ .beacon ∨ ∀ g ∈ q, g.body ≠ .beacon
    let placing := u.port.state ≠ .off ∧ u.port.state ≠ .silent
    (u.port.state = .off → offerFrame body n u = u)
    ∧ (u.port.state = .silent → offerFrame body n u = count .sendDiscards u)
    ∧ (placing → plain → q.length < 6 → offerFrame body n u = { u with port.queue := among new q })
    ∧ (placing → body = .beacon → ∀ b ∈ q, b.body = .beacon →
        offerFrame body n u =
          { u with port.queue := among { b with entryTime := u.localTime }
                                  (q.filter (fun g => decide (g.body ≠ .beacon))) })
    ∧ (placing → plain → q.length = 6 → (∀ g ∈ q, g.underAttempt = true ∨ g.urgency ≤ n) →
        offerFrame body n u = count .sendDiscards u)
    ∧ (placing → plain → q.length = 6 → ∀ (before after : List QueuedFrame) (g : QueuedFrame), q = before ++ g :: after →
        g.underAttempt = false → n < g.urgency → (∀ h ∈ q, h.underAttempt = false → h.urgency ≤ g.urgency) →
        (∀ h ∈ after, h.underAttempt = false → h.urgency < g.urgency) →
        offerFrame body n u = count .sendDiscards { u with port.queue := among new (before ++ after) })

/-! ### The Corridor Message Handler -/

/-- PASSAGE_REQUEST offers a PASSAGE with the request's fields, the direction of the approach's role, the downstream
station of that direction's link record, and urgency 2 for a grade of 8 or more, else 4; WITHDRAW_REQUEST offers a
WITHDRAW of urgency 1; BEACON_TIMER, one beacon interval after its last start, offers a BEACON of urgency 3 and starts the
timer again. PASSAGE_RECEIVED while RUNNING: a report of vehicle 0 or 65535 is discarded, counted FORECAST_DISCARDED only
if addressed here; one addressed here from another station than the upstream one of its direction's link record (or
without that record) is discarded and counted; from that station it becomes one forecast request; one addressed elsewhere
becomes an invalidation request. So does WITHDRAW_RECEIVED. An item handled outside RUNNING, with the port OFF, reaches no
queue and no table; a frame that is refused is counted all the same (R158). That BEACON_TIMER has no effect before its time is
the model's choice (assumption 12). -/
def Obligations.HandlerItems : Prop :=
  (∀ (s : State) (rest : List HandlerRequest), Active s →
      let taken : Bn24 := { s.unit with handler.requests := rest }
      let restarted : Bn24 := { s.unit with clock.beaconStart := some s.unit.localTime }
      (∀ (r : PassageRequest) (a : ApproachRecord) (d : FlowDirection) (l : LinkRecord),
        s.unit.handler.requests = .passage r :: rest → approachRecord s.unit r.approach = some a →
        (a.role = .outbound ∧ d = .outbound) ∨ (a.role = .inbound ∧ d = .inbound) → linkRecord s.unit d = some l →
        l.downstream ≠ 0 →
        let fields : PassageFields :=
          { key := r.key, routeClass := r.routeClass, lateness := r.lateness, chain := r.chain, direction := d
            next := l.downstream, checkOut := r.checkOut }
        exec .passageRequest s =
          .next { s with unit := offerFrame (.passage fields) (if 8 ≤ r.grade then 2 else 4) taken })
      ∧ (∀ k : Key, s.unit.handler.requests = .withdraw k :: rest →
          exec .withdrawRequest s = .next { s with unit := offerFrame (.withdraw k) 1 taken })
      ∧ (∀ since : Time, s.unit.clock.lock ≠ .off → s.unit.clock.beaconStart = some since →
          let interval : Int := s.unit.loader.inForce.params.beaconInterval
          (interval ≤ age s.unit.localTime since →
            exec .beaconTimer s =
              .next { s with unit := offerFrame .beacon 3 restarted })
          ∧ (age s.unit.localTime since < interval → exec .beaconTimer s = .next s))
      ∧ (s.unit.clock.beaconStart = none ∨ s.unit.clock.lock = .off → exec .beaconTimer s = .next s))
  ∧ (∀ (s : State) (rest : List ReceivedFrame), Running s →
      let own := s.unit.loader.inForce.station
      let taken : Bn24 := { s.unit with handler.frames := rest }
      (∀ f : ReceivedPassage, s.unit.handler.frames = .passage f :: rest →
        let noBus := f.key.vehicle = 0 ∨ f.key.vehicle = 0xFFFF
        (noBus → f.next = own → exec .passageReceived s = .next { s with unit := count .forecastDiscarded taken })
        ∧ (noBus → f.next ≠ own → exec .passageReceived s = .next { s with unit := taken })
        ∧ (¬ noBus → f.next = own → (∀ l ∈ linkRecord s.unit f.direction, l.upstream ≠ f.sender) →
            exec .passageReceived s = .next { s with unit := count .forecastDiscarded taken })
        ∧ (¬ noBus → f.next = own → ∀ l ∈ linkRecord s.unit f.direction, l.upstream = f.sender →
            exec .passageReceived s =
              .next { s with unit.handler.frames := rest
                             unit.table.requests := s.unit.table.requests ++ [.forecast
                              { key := f.key, chain := f.chain, approach := l.approach
                                result := passageForecast s.unit f l }] })
        ∧ (¬ noBus → f.next ≠ own →
            exec .passageReceived s =
              .next { s with unit.handler.frames := rest
                             unit.table.requests := s.unit.table.requests ++ [.invalidation f.key] }))
      ∧ (∀ (sender : Nat) (k : Key), s.unit.handler.frames = .withdraw sender k :: rest →
          exec .withdrawReceived s =
            .next { s with unit.handler.frames := rest
                           unit.table.requests := s.unit.table.requests ++ [.invalidation k] }))
  ∧ (∀ s : State, Active s → s.unit.loader.run ≠ .running → s.unit.port.state = .off →
      (∀ (r : HandlerRequest) (rest : List HandlerRequest) (c : Instr), s.unit.handler.requests = r :: rest →
        c = (match r with | .passage _ => .passageRequest | .withdraw _ => .withdrawRequest) →
        exec c s = .next { s with unit.handler.requests := rest })
      ∧ (∀ (f : ReceivedFrame) (rest : List ReceivedFrame) (c : Instr), s.unit.handler.frames = f :: rest →
          c = (match f with | .passage _ => .passageReceived | .withdraw _ _ => .withdrawReceived) →
          exec c s = .next { s with
            unit.handler.frames := rest
            unit.maint := if refusedHere s.unit f = true then (count .forecastDiscarded s.unit).maint else s.unit.maint }))

/-! ### The Corridor Time Unit -/

/-- A record of a consistent beacon: it refreshes its station's record, else takes a free place among 16, else the place
of the oldest record but the reference's, the higher station of those equally old; so at most 16 records stay, one of each
station. BEACON_RECEIVED, the beacons that move no clock: while OFF, or inconsistent (a lock state code above 5 among them), a
beacon is discarded without effect; one from a station not lower than the unit's own is recorded and no more; so is, in COARSE and FINE, one from
between the reference and the unit, and in HOLDOVER one while a non-stale record of a still lower station exists. -/
def Obligations.PeerRecords : Prop :=
  (∀ (new : Peer) (reference : Nat) (peers : List Peer), peers.length ≤ 16 → (peers.map Peer.station).Nodup →
      let after := recordPeer new reference peers
      let replaced := fun out : Peer => peers.map (fun p => if p.station = out.station then new else p)
      (after.length ≤ 16 ∧ (after.map Peer.station).Nodup)
      ∧ ((∃ p ∈ peers, p.station = new.station) → after = replaced new)
      ∧ ((∀ p ∈ peers, p.station ≠ new.station) → peers.length < 16 → after = peers ++ [new])
      ∧ ((∀ p ∈ peers, p.station ≠ new.station) → peers.length = 16 →
          ∀ out ∈ peers, out.station ≠ reference →
            (∀ p ∈ peers, p.station ≠ reference → p ≠ out →
              later p.last out.last = true ∨ (p.last = out.last ∧ p.station < out.station)) →
            after = replaced out))
  ∧ (∀ (s : State) (b : ReceivedBeacon) (rest : List ReceivedBeacon), Active s → s.unit.clock.beacons = b :: rest →
      s.unit.clock.lock = .off ∨ Inconsistent b →
      exec .beaconReceived s = .next { s with unit.clock.beacons := rest })
  ∧ (∀ (s : State) (b : ReceivedBeacon) (rest : List ReceivedBeacon) (st : LockState),
      Active s → s.unit.clock.beacons = b :: rest → st.code = b.lock →
      let c := s.unit.clock
      let own := s.unit.loader.inForce.station
      let peers := recordPeer { station := b.station, last := b.startMark, lock := st } c.reference c.peers
      let recorded := exec .beaconReceived s = .next { s with unit.clock.beacons := rest, unit.clock.peers := peers }
      (c.lock ≠ .off → ¬ Inconsistent b → own ≤ b.station → recorded)
      ∧ (c.lock = .coarse ∨ c.lock = .fine → ¬ Inconsistent b → 0 < c.reference → c.reference < b.station → recorded)
      ∧ (c.lock = .holdover → ¬ Inconsistent b →
          (∃ p ∈ peers, p.station < b.station
            ∧ age s.unit.localTime p.last ≤ (s.unit.loader.inForce.params.referenceTimeout : Int)) → recorded))

/-- BEACON_RECEIVED, taking a reference: in ACQUIRING and FREE any lower station, in COARSE and FINE one lower than the
reference, in HOLDOVER one below which no non-stale record stands. It becomes the reference (REFERENCE_CHANGES counted if
it was not), the unit steps onto its time (TIME_STEPS counted) and is COARSE with fine count 0; a unit that was FINE has
left FINE. -/
def Obligations.LowerStationsAreTakenAsReference : Prop :=
  ∀ (s : State) (b : ReceivedBeacon) (rest : List ReceivedBeacon) (st : LockState),
    Active s → s.unit.clock.beacons = b :: rest → st.code = b.lock → ¬ Inconsistent b →
    b.station < s.unit.loader.inForce.station →
    let c := s.unit.clock
    let peers := recordPeer { station := b.station, last := b.startMark, lock := st } c.reference c.peers
    let mode := s.unit.loader.inForce.params.lockEventMode
    let counted := count .timeSteps (if b.station = c.reference then s.unit else count .referenceChanges s.unit)
    c.lock = .acquiring ∨ c.lock = .free ∨ ((c.lock = .coarse ∨ c.lock = .fine) ∧ b.station < c.reference)
      ∨ (c.lock = .holdover ∧ ∀ p ∈ peers, p.station < b.station →
          (s.unit.loader.inForce.params.referenceTimeout : Int) < age s.unit.localTime p.last) →
    exec .beaconReceived s =
      .next { s with unit.clock := { c with beacons := rest, peers := peers, offset := b.time - b.startMark, lock := .coarse
                                            reference := b.station, fine := 0, acqStart := none, holdStart := none }
                     unit.maint := if c.lock = .fine ∧ (mode = 2 ∨ mode = 3) then (flag .lockEvent counted).maint
                                   else counted.maint }

/-- BEACON_RECEIVED from the reference in COARSE, by the size of its error: above 20 a counted step with fine count 0;
above 2 the full correction with fine count 0; else the full correction and one more, the third in a row entering FINE
with miss count 0 (R169). BEACON_RECEIVED from the reference in FINE, by the size of its error: within 2 a slew of at most
1 ds with miss count 0; within 20 a slew and one more miss, the third dropping to COARSE with fine count 0; above 20 a
counted step to COARSE with fine count 0 and the miss count unchanged (R170). -/
def Obligations.BeaconsFromTheReference : Prop :=
  (∀ (s : State) (b : ReceivedBeacon) (rest : List ReceivedBeacon) (st : LockState),
      Active s → s.unit.clock.beacons = b :: rest → st.code = b.lock → ¬ Inconsistent b →
      b.station < s.unit.loader.inForce.station → s.unit.clock.lock = .coarse → s.unit.clock.reference = b.station →
      0 < b.station →
      let c := s.unit.clock
      let e := (timeDiff b.time (b.startMark + c.offset)).natAbs
      let peers := recordPeer { station := b.station, last := b.startMark, lock := st } c.reference c.peers
      let mode := s.unit.loader.inForce.params.lockEventMode
      let clock := fun (fine miss : Nat) (lock : LockState) =>
        { c with beacons := rest, peers := peers, offset := b.time - b.startMark, fine := fine, miss := miss, lock := lock }
      (20 < e → exec .beaconReceived s =
        .next { s with unit.clock := clock 0 c.miss .coarse, unit.maint := (count .timeSteps s.unit).maint })
      ∧ (2 < e → e ≤ 20 → exec .beaconReceived s = .next { s with unit.clock := clock 0 c.miss .coarse })
      ∧ (e ≤ 2 → c.fine = 0 ∨ c.fine = 1 →
          exec .beaconReceived s = .next { s with unit.clock := clock (c.fine + 1) c.miss .coarse })
      ∧ (e ≤ 2 → c.fine = 2 →
          exec .beaconReceived s =
            .next { s with unit.clock := clock 3 0 .fine
                           unit.maint := if mode = 1 ∨ mode = 3 then (flag .lockEvent s.unit).maint else s.unit.maint }))
  ∧ (∀ (s : State) (b : ReceivedBeacon) (rest : List ReceivedBeacon) (st : LockState),
      Active s → s.unit.clock.beacons = b :: rest → st.code = b.lock → ¬ Inconsistent b →
      b.station < s.unit.loader.inForce.station → s.unit.clock.lock = .fine → s.unit.clock.reference = b.station →
      0 < b.station →
      let c := s.unit.clock
      let e := timeDiff b.time (b.startMark + c.offset)
      let peers := recordPeer { station := b.station, last := b.startMark, lock := st } c.reference c.peers
      let mode := s.unit.loader.inForce.params.lockEventMode
      let slewed : Time := if 0 < e then c.offset + 1 else if e < 0 then c.offset - 1 else c.offset
      let clock := fun (offset : Time) (fine miss : Nat) (lock : LockState) =>
        { c with beacons := rest, peers := peers, offset := offset, fine := fine, miss := miss, lock := lock }
      let left := fun u : Bn24 => if mode = 2 ∨ mode = 3 then (flag .lockEvent u).maint else u.maint
      (e.natAbs ≤ 2 → exec .beaconReceived s = .next { s with unit.clock := clock slewed c.fine 0 .fine })
      ∧ (2 < e.natAbs → e.natAbs ≤ 20 → c.miss = 0 ∨ c.miss = 1 →
          exec .beaconReceived s = .next { s with unit.clock := clock slewed c.fine (c.miss + 1) .fine })
      ∧ (2 < e.natAbs → e.natAbs ≤ 20 → c.miss = 2 →
          exec .beaconReceived s = .next { s with unit.clock := clock slewed 0 3 .coarse, unit.maint := left s.unit })
      ∧ (20 < e.natAbs →
          exec .beaconReceived s =
            .next { s with unit.clock := clock (b.time - b.startMark) 0 c.miss .coarse
                           unit.maint := left (count .timeSteps s.unit) }))

/-- The clock's timers: ACQUISITION_WAIT_END past the reference timeout enters FREE; REFERENCE_STALE, the reference's
record being older than the timeout in COARSE or FINE, enters HOLDOVER, flagged, with the offset and the reference kept;
HOLDOVER_LIMIT and LOWER_RECORD_STALE enter FREE once the limit has passed and no non-stale lower record exists. Before
that they have no effect. That choice is the model's (assumption 12). -/
def Obligations.ClockTimersChangeTheLock : Prop :=
  ∀ (s : State) (c : Instr) (since : Time), Active s → PeersOk s.unit →
    let clock := s.unit.clock
    let now := s.unit.localTime
    let params := s.unit.loader.inForce.params
    let stale := fun p : Peer => (params.referenceTimeout : Int) < age now p.last
    let free := { s with unit.clock := { clock with lock := .free, reference := 0, acqStart := none, holdStart := none } }
    (clock.lock = .acquiring → clock.acqStart = some since →
      ((params.referenceTimeout : Int) < age now since → exec .acquisitionWaitEnd s = .next free)
      ∧ (age now since ≤ (params.referenceTimeout : Int) → exec .acquisitionWaitEnd s = .next s))
    ∧ (clock.lock ≠ .acquiring → exec .acquisitionWaitEnd s = .next s)
    ∧ (clock.lock = .coarse ∨ clock.lock = .fine → ∀ p ∈ clock.peers, p.station = clock.reference →
        (stale p → exec .referenceStale s =
          .next { s with unit.clock := { clock with lock := .holdover, fine := 0, miss := 0, holdStart := some now }
                         unit.maint.flags := s.unit.maint.flags ||| 0x0040 |||
                          (if clock.lock = .fine ∧ (params.lockEventMode = 2 ∨ params.lockEventMode = 3) then 0x0020
                           else 0) })
        ∧ (¬ stale p → exec .referenceStale s = .next s))
    ∧ (clock.lock ≠ .coarse → clock.lock ≠ .fine → exec .referenceStale s = .next s)
    ∧ (c = .holdoverLimit ∨ c = .lowerRecordStale →
        (clock.lock = .holdover → clock.holdStart = some since →
          ((params.holdoverLimit : Int) < age now since →
            (∀ p ∈ clock.peers, p.station < s.unit.loader.inForce.station → stale p) → exec c s = .next free)
          ∧ (age now since ≤ (params.holdoverLimit : Int)
                ∨ (∃ p ∈ clock.peers, p.station < s.unit.loader.inForce.station ∧ ¬ stale p) → exec c s = .next s))
        ∧ (clock.lock ≠ .holdover → exec c s = .next s))

/-! ### Invariants and single writers -/

/-- Every invariant below holds in the state right after a hard reset. -/
def Obligations.InvariantsHoldAfterReset : Prop :=
  let u := State.reset.unit
  FlagBitsOk u ∧ LinkOk u ∧ RecentOk u ∧ InboxOk u ∧ QueueOk u ∧ PeersOk u ∧ KeysOk u ∧ GrantInvariant u
    ∧ QuietInvariant u ∧ ClockInvariant u ∧ FramingOk u.detection.framing ∧ FramingOk u.controller.framing

/-- Every step keeps the bounds of the collections: at most 8 recent departures of distinct keys, 8 inbox messages, 16
peer records of distinct stations, and 6 frames in urgency order with at most one BEACON; a receiver that is collecting holds no
more bytes than the length it knows, which lies in 1 to 16; the flag bits without a flag stay 0, the next request id is never 0,
and no message waits behind an idle transmitter. -/
def Obligations.EveryStepKeepsTheCollections : Prop :=
  ∀ s t : State, step s = .next t →
    (RecentOk s.unit → RecentOk t.unit) ∧ (InboxOk s.unit → InboxOk t.unit) ∧ (PeersOk s.unit → PeersOk t.unit)
      ∧ (QueueOk s.unit → QueueOk t.unit) ∧ (FlagBitsOk s.unit → FlagBitsOk t.unit) ∧ (LinkOk s.unit → LinkOk t.unit)
      ∧ (FramingOk s.unit.detection.framing → FramingOk t.unit.detection.framing)
      ∧ (FramingOk s.unit.controller.framing → FramingOk t.unit.controller.framing)

/-- Every step keeps keys unique: no two entries hold one key, and no key of the table is in the recent-departures list.
-/
def Obligations.EveryStepKeepsKeysUnique : Prop :=
  ∀ s t : State, KeysOk s.unit → step s = .next t → KeysOk t.unit

/-- Every step keeps the entries as their record says and in agreement with the grant slot: decisions, windows and
qualities are present exactly where they should be, none of grade 0 or without a window leaves WAITING, at most one entry
is OFFERED and it is the offer's, and the members of a grant, 1 to 4 on its approach, are the holder GRANTED and the
others RIDING; and join requests wait only while a grant is ACTIVE. -/
def Obligations.EveryStepKeepsEntriesAndGrantInAgreement : Prop :=
  ∀ s t : State, GrantInvariant s.unit → step s = .next t → GrantInvariant t.unit

/-- Every step keeps a unit that is not RUNNING quiet: its collections empty, the slot FREE, the port and the clock OFF.
Every step keeps the reference station as the lock state has it: 0 in ACQUIRING and FREE, and a station lower than the
unit's own in COARSE, FINE and HOLDOVER; that of a state saved over a reload too. -/
def Obligations.EveryStepKeepsQuietAndReference : Prop :=
  (∀ s t : State, QuietInvariant s.unit → step s = .next t → QuietInvariant t.unit)
  ∧ (∀ s t : State, ClockInvariant s.unit → step s = .next t → ClockInvariant t.unit)

/-- Counters never fall and flags stay set, but by the commands that clear them: CLEAR_COUNTERS and HARD_RESET the
counters, CLEAR_FLAGS and HARD_RESET the flags; RELOAD keeps both. -/
def Obligations.CountersAndFlagsOnlyRise : Prop :=
  ∀ (c : Instr) (s t : State), exec c s = .next t → c ≠ .hardReset →
    (c ≠ .clearCounters → ∀ k : Counter, (counterOf k s.unit).toNat ≤ (counterOf k t.unit).toNat)
      ∧ ((∀ b, c ≠ .clearFlags b) → ∀ f : Flag, flagSet f s.unit = true → flagSet f t.unit = true)

/-- Each of six pieces of state is written by its owner's commands only: local time by no command but HARD_RESET, the corridor
offset and the peer table by BEACON_RECEIVED, the phase view by CONTROLLER_MESSAGE_RECEIVED, LINK_START_BYTE (where its byte
ends a message) and RELOAD, the eviction pointer by CHECK_IN and FORECAST_REQUEST, the configuration in force by the steps of a
load that end in RUNNING; HARD_RESET resets each. -/
def Obligations.SixPiecesOfStateHaveTheirWriters : Prop :=
  ∀ (c : Instr) (s t : State), exec c s = .next t → c ≠ .hardReset →
    t.unit.localTime = s.unit.localTime
      ∧ (c ≠ .beaconReceived → t.unit.clock.offset = s.unit.clock.offset ∧ t.unit.clock.peers = s.unit.clock.peers)
      ∧ ((∀ p k, c ≠ .controllerMessageReceived p k) → c ≠ .linkStartByte → (∀ n, c ≠ .reload n) →
          t.unit.controller.phase = s.unit.controller.phase)
      ∧ (c ≠ .checkIn → c ≠ .forecastRequest → t.unit.table.evict = s.unit.table.evict)
      ∧ (t.unit.loader.inForce ≠ s.unit.loader.inForce →
          t.unit.loader.run = .running ∧ s.unit.loader.phase ≠ .none
            ∧ t.unit.maint.enables = t.unit.loader.inForce.params.enables)

/-- Only CHECK_IN and FORECAST_REQUEST rewrite an entry's forecast fields, and even they only where the message or the request
that they take is of the entry's own key; and no entry that is ARMED, OFFERED, GRANTED or RIDING is ever evicted by them. -/
def Obligations.EntriesAreRewrittenByTheirOwnMessages : Prop :=
  ∀ (c : Instr) (s t : State) (i : SlotIx) (e : Entry), exec c s = .next t → entryIn s.unit i = some e →
    (c ≠ .checkIn → c ≠ .forecastRequest → ∀ f, entryIn t.unit i = some f → SameForecast e f)
    ∧ ((∀ p k cls late speed skip rq ib, c = .checkIn → TakesDetection s (.checkIn p k cls late speed skip) rq ib → e.key ≠ k) →
        (∀ r rq, c = .forecastRequest → s.unit.table.requests = .forecast r :: rq → e.key ≠ r.key) →
        ∀ f, entryIn t.unit i = some f → f.key = e.key → SameForecast e f)
    ∧ (c = .checkIn ∨ c = .forecastRequest → e.service ≠ .waiting → ∃ f, entryIn t.unit i = some f ∧ f.key = e.key)
end

