-- ==== Sys2Proof/Laws/State.lean ====
section
/-! SUPPORT. What each named update leaves in each field of the state: one lemma per field, true by rfl. -/

namespace Sys2Proof.Machine

/-! ### count -/

@[simp] theorem count_resetHeld (c : Counter) (u : Bn24) : (count c u).resetHeld = u.resetHeld := rfl
@[simp] theorem count_localTime (c : Counter) (u : Bn24) : (count c u).localTime = u.localTime := rfl
@[simp] theorem count_table (c : Counter) (u : Bn24) : (count c u).table = u.table := rfl
@[simp] theorem count_arbiter (c : Counter) (u : Bn24) : (count c u).arbiter = u.arbiter := rfl
@[simp] theorem count_controller (c : Counter) (u : Bn24) : (count c u).controller = u.controller := rfl
@[simp] theorem count_detection (c : Counter) (u : Bn24) : (count c u).detection = u.detection := rfl
@[simp] theorem count_port (c : Counter) (u : Bn24) : (count c u).port = u.port := rfl
@[simp] theorem count_handler (c : Counter) (u : Bn24) : (count c u).handler = u.handler := rfl
@[simp] theorem count_clock (c : Counter) (u : Bn24) : (count c u).clock = u.clock := rfl
@[simp] theorem count_loader (c : Counter) (u : Bn24) : (count c u).loader = u.loader := rfl
@[simp] theorem count_maint_counters (c : Counter) (u : Bn24) :
    (count c u).maint.counters = u.maint.counters.set c.ix (satInc u.maint.counters[c.ix]) := rfl
@[simp] theorem count_maint_flags (c : Counter) (u : Bn24) : (count c u).maint.flags = u.maint.flags := rfl
@[simp] theorem count_maint_enables (c : Counter) (u : Bn24) : (count c u).maint.enables = u.maint.enables := rfl
@[simp] theorem count_maint_address (c : Counter) (u : Bn24) : (count c u).maint.address = u.maint.address := rfl
@[simp] theorem count_maint_madr (c : Counter) (u : Bn24) : (count c u).maint.madr = u.maint.madr := rfl
@[simp] theorem count_maint_transfer (c : Counter) (u : Bn24) : (count c u).maint.transfer = u.maint.transfer := rfl
@[simp] theorem count_maint_enablesFirst (c : Counter) (u : Bn24) :
    (count c u).maint.enablesFirst = u.maint.enablesFirst := rfl
@[simp] theorem count_maint_maskWait (c : Counter) (u : Bn24) : (count c u).maint.maskWait = u.maint.maskWait := rfl
@[simp] theorem count_maint_latch (c : Counter) (u : Bn24) : (count c u).maint.latch = u.maint.latch := rfl
@[simp] theorem count_maint_command (c : Counter) (u : Bn24) : (count c u).maint.command = u.maint.command := rfl
@[simp] theorem count_maint_status (c : Counter) (u : Bn24) : (count c u).maint.status = u.maint.status := rfl
@[simp] theorem count_maint_readData (c : Counter) (u : Bn24) : (count c u).maint.readData = u.maint.readData := rfl

/-! ### flag -/

@[simp] theorem flag_resetHeld (f : Flag) (u : Bn24) : (flag f u).resetHeld = u.resetHeld := rfl
@[simp] theorem flag_localTime (f : Flag) (u : Bn24) : (flag f u).localTime = u.localTime := rfl
@[simp] theorem flag_table (f : Flag) (u : Bn24) : (flag f u).table = u.table := rfl
@[simp] theorem flag_arbiter (f : Flag) (u : Bn24) : (flag f u).arbiter = u.arbiter := rfl
@[simp] theorem flag_controller (f : Flag) (u : Bn24) : (flag f u).controller = u.controller := rfl
@[simp] theorem flag_detection (f : Flag) (u : Bn24) : (flag f u).detection = u.detection := rfl
@[simp] theorem flag_port (f : Flag) (u : Bn24) : (flag f u).port = u.port := rfl
@[simp] theorem flag_handler (f : Flag) (u : Bn24) : (flag f u).handler = u.handler := rfl
@[simp] theorem flag_clock (f : Flag) (u : Bn24) : (flag f u).clock = u.clock := rfl
@[simp] theorem flag_loader (f : Flag) (u : Bn24) : (flag f u).loader = u.loader := rfl
@[simp] theorem flag_maint_counters (f : Flag) (u : Bn24) : (flag f u).maint.counters = u.maint.counters := rfl
@[simp] theorem flag_maint_flags (f : Flag) (u : Bn24) :
    (flag f u).maint.flags = u.maint.flags ||| (1#16 <<< f.bit) := rfl
@[simp] theorem flag_maint_enables (f : Flag) (u : Bn24) : (flag f u).maint.enables = u.maint.enables := rfl
@[simp] theorem flag_maint_address (f : Flag) (u : Bn24) : (flag f u).maint.address = u.maint.address := rfl
@[simp] theorem flag_maint_madr (f : Flag) (u : Bn24) : (flag f u).maint.madr = u.maint.madr := rfl
@[simp] theorem flag_maint_transfer (f : Flag) (u : Bn24) : (flag f u).maint.transfer = u.maint.transfer := rfl
@[simp] theorem flag_maint_enablesFirst (f : Flag) (u : Bn24) :
    (flag f u).maint.enablesFirst = u.maint.enablesFirst := rfl
@[simp] theorem flag_maint_maskWait (f : Flag) (u : Bn24) : (flag f u).maint.maskWait = u.maint.maskWait := rfl
@[simp] theorem flag_maint_latch (f : Flag) (u : Bn24) : (flag f u).maint.latch = u.maint.latch := rfl
@[simp] theorem flag_maint_command (f : Flag) (u : Bn24) : (flag f u).maint.command = u.maint.command := rfl
@[simp] theorem flag_maint_status (f : Flag) (u : Bn24) : (flag f u).maint.status = u.maint.status := rfl
@[simp] theorem flag_maint_readData (f : Flag) (u : Bn24) : (flag f u).maint.readData = u.maint.readData := rfl

/-! ### setSlot -/

@[simp] theorem setSlot_resetHeld (i : SlotIx) (e : Option Entry) (u : Bn24) : (setSlot i e u).resetHeld = u.resetHeld := rfl
@[simp] theorem setSlot_localTime (i : SlotIx) (e : Option Entry) (u : Bn24) : (setSlot i e u).localTime = u.localTime := rfl
@[simp] theorem setSlot_table_slots (i : SlotIx) (e : Option Entry) (u : Bn24) :
    (setSlot i e u).table.slots = u.table.slots.set i e := rfl
@[simp] theorem setSlot_table_evict (i : SlotIx) (e : Option Entry) (u : Bn24) :
    (setSlot i e u).table.evict = u.table.evict := rfl
@[simp] theorem setSlot_table_recent (i : SlotIx) (e : Option Entry) (u : Bn24) :
    (setSlot i e u).table.recent = u.table.recent := rfl
@[simp] theorem setSlot_table_requests (i : SlotIx) (e : Option Entry) (u : Bn24) :
    (setSlot i e u).table.requests = u.table.requests := rfl
@[simp] theorem setSlot_arbiter (i : SlotIx) (e : Option Entry) (u : Bn24) : (setSlot i e u).arbiter = u.arbiter := rfl
@[simp] theorem setSlot_controller (i : SlotIx) (e : Option Entry) (u : Bn24) : (setSlot i e u).controller = u.controller := rfl
@[simp] theorem setSlot_detection (i : SlotIx) (e : Option Entry) (u : Bn24) : (setSlot i e u).detection = u.detection := rfl
@[simp] theorem setSlot_port (i : SlotIx) (e : Option Entry) (u : Bn24) : (setSlot i e u).port = u.port := rfl
@[simp] theorem setSlot_handler (i : SlotIx) (e : Option Entry) (u : Bn24) : (setSlot i e u).handler = u.handler := rfl
@[simp] theorem setSlot_clock (i : SlotIx) (e : Option Entry) (u : Bn24) : (setSlot i e u).clock = u.clock := rfl
@[simp] theorem setSlot_loader (i : SlotIx) (e : Option Entry) (u : Bn24) : (setSlot i e u).loader = u.loader := rfl
@[simp] theorem setSlot_maint (i : SlotIx) (e : Option Entry) (u : Bn24) : (setSlot i e u).maint = u.maint := rfl

/-! ### setGrant -/

@[simp] theorem setGrant_resetHeld (g : GrantSlot) (u : Bn24) : (setGrant g u).resetHeld = u.resetHeld := rfl
@[simp] theorem setGrant_localTime (g : GrantSlot) (u : Bn24) : (setGrant g u).localTime = u.localTime := rfl
@[simp] theorem setGrant_table (g : GrantSlot) (u : Bn24) : (setGrant g u).table = u.table := rfl
@[simp] theorem setGrant_arbiter_slot (g : GrantSlot) (u : Bn24) : (setGrant g u).arbiter.slot = g := rfl
@[simp] theorem setGrant_arbiter_nextId (g : GrantSlot) (u : Bn24) :
    (setGrant g u).arbiter.nextId = u.arbiter.nextId := rfl
@[simp] theorem setGrant_arbiter_joins (g : GrantSlot) (u : Bn24) :
    (setGrant g u).arbiter.joins = u.arbiter.joins := rfl
@[simp] theorem setGrant_controller (g : GrantSlot) (u : Bn24) : (setGrant g u).controller = u.controller := rfl
@[simp] theorem setGrant_detection (g : GrantSlot) (u : Bn24) : (setGrant g u).detection = u.detection := rfl
@[simp] theorem setGrant_port (g : GrantSlot) (u : Bn24) : (setGrant g u).port = u.port := rfl
@[simp] theorem setGrant_handler (g : GrantSlot) (u : Bn24) : (setGrant g u).handler = u.handler := rfl
@[simp] theorem setGrant_clock (g : GrantSlot) (u : Bn24) : (setGrant g u).clock = u.clock := rfl
@[simp] theorem setGrant_loader (g : GrantSlot) (u : Bn24) : (setGrant g u).loader = u.loader := rfl
@[simp] theorem setGrant_maint (g : GrantSlot) (u : Bn24) : (setGrant g u).maint = u.maint := rfl

/-! ### freeGrant -/

@[simp] theorem freeGrant_resetHeld (u : Bn24) : (freeGrant u).resetHeld = u.resetHeld := rfl
@[simp] theorem freeGrant_localTime (u : Bn24) : (freeGrant u).localTime = u.localTime := rfl
@[simp] theorem freeGrant_table (u : Bn24) : (freeGrant u).table = u.table := rfl
@[simp] theorem freeGrant_arbiter_slot (u : Bn24) : (freeGrant u).arbiter.slot = .free := rfl
@[simp] theorem freeGrant_arbiter_nextId (u : Bn24) : (freeGrant u).arbiter.nextId = u.arbiter.nextId := rfl
@[simp] theorem freeGrant_arbiter_joins (u : Bn24) : (freeGrant u).arbiter.joins = [] := rfl
@[simp] theorem freeGrant_controller (u : Bn24) : (freeGrant u).controller = u.controller := rfl
@[simp] theorem freeGrant_detection (u : Bn24) : (freeGrant u).detection = u.detection := rfl
@[simp] theorem freeGrant_port (u : Bn24) : (freeGrant u).port = u.port := rfl
@[simp] theorem freeGrant_handler (u : Bn24) : (freeGrant u).handler = u.handler := rfl
@[simp] theorem freeGrant_clock (u : Bn24) : (freeGrant u).clock = u.clock := rfl
@[simp] theorem freeGrant_loader (u : Bn24) : (freeGrant u).loader = u.loader := rfl
@[simp] theorem freeGrant_maint (u : Bn24) : (freeGrant u).maint = u.maint := rfl

/-! ### sendHandler -/

@[simp] theorem sendHandler_resetHeld (r : HandlerRequest) (u : Bn24) : (sendHandler r u).resetHeld = u.resetHeld := rfl
@[simp] theorem sendHandler_localTime (r : HandlerRequest) (u : Bn24) : (sendHandler r u).localTime = u.localTime := rfl
@[simp] theorem sendHandler_table (r : HandlerRequest) (u : Bn24) : (sendHandler r u).table = u.table := rfl
@[simp] theorem sendHandler_arbiter (r : HandlerRequest) (u : Bn24) : (sendHandler r u).arbiter = u.arbiter := rfl
@[simp] theorem sendHandler_controller (r : HandlerRequest) (u : Bn24) : (sendHandler r u).controller = u.controller := rfl
@[simp] theorem sendHandler_detection (r : HandlerRequest) (u : Bn24) : (sendHandler r u).detection = u.detection := rfl
@[simp] theorem sendHandler_port (r : HandlerRequest) (u : Bn24) : (sendHandler r u).port = u.port := rfl
@[simp] theorem sendHandler_handler_requests (r : HandlerRequest) (u : Bn24) :
    (sendHandler r u).handler.requests = u.handler.requests ++ [r] := rfl
@[simp] theorem sendHandler_handler_frames (r : HandlerRequest) (u : Bn24) :
    (sendHandler r u).handler.frames = u.handler.frames := rfl
@[simp] theorem sendHandler_clock (r : HandlerRequest) (u : Bn24) : (sendHandler r u).clock = u.clock := rfl
@[simp] theorem sendHandler_loader (r : HandlerRequest) (u : Bn24) : (sendHandler r u).loader = u.loader := rfl
@[simp] theorem sendHandler_maint (r : HandlerRequest) (u : Bn24) : (sendHandler r u).maint = u.maint := rfl

/-! ### popRequest -/

@[simp] theorem popRequest_resetHeld (u : Bn24) : (popRequest u).resetHeld = u.resetHeld := rfl
@[simp] theorem popRequest_localTime (u : Bn24) : (popRequest u).localTime = u.localTime := rfl
@[simp] theorem popRequest_table_slots (u : Bn24) : (popRequest u).table.slots = u.table.slots := rfl
@[simp] theorem popRequest_table_evict (u : Bn24) : (popRequest u).table.evict = u.table.evict := rfl
@[simp] theorem popRequest_table_recent (u : Bn24) : (popRequest u).table.recent = u.table.recent := rfl
@[simp] theorem popRequest_table_requests (u : Bn24) : (popRequest u).table.requests = u.table.requests.tail := rfl
@[simp] theorem popRequest_arbiter (u : Bn24) : (popRequest u).arbiter = u.arbiter := rfl
@[simp] theorem popRequest_controller (u : Bn24) : (popRequest u).controller = u.controller := rfl
@[simp] theorem popRequest_detection (u : Bn24) : (popRequest u).detection = u.detection := rfl
@[simp] theorem popRequest_port (u : Bn24) : (popRequest u).port = u.port := rfl
@[simp] theorem popRequest_handler (u : Bn24) : (popRequest u).handler = u.handler := rfl
@[simp] theorem popRequest_clock (u : Bn24) : (popRequest u).clock = u.clock := rfl
@[simp] theorem popRequest_loader (u : Bn24) : (popRequest u).loader = u.loader := rfl
@[simp] theorem popRequest_maint (u : Bn24) : (popRequest u).maint = u.maint := rfl

/-! ### purgeRecent -/

@[simp] theorem purgeRecent_resetHeld (u : Bn24) : (purgeRecent u).resetHeld = u.resetHeld := rfl
@[simp] theorem purgeRecent_localTime (u : Bn24) : (purgeRecent u).localTime = u.localTime := rfl
@[simp] theorem purgeRecent_table_slots (u : Bn24) : (purgeRecent u).table.slots = u.table.slots := rfl
@[simp] theorem purgeRecent_table_evict (u : Bn24) : (purgeRecent u).table.evict = u.table.evict := rfl
@[simp] theorem purgeRecent_table_recent (u : Bn24) :
    (purgeRecent u).table.recent = u.table.recent.filter (fun d => !lapsed u.localTime d) := rfl
@[simp] theorem purgeRecent_table_requests (u : Bn24) : (purgeRecent u).table.requests = u.table.requests := rfl
@[simp] theorem purgeRecent_arbiter (u : Bn24) : (purgeRecent u).arbiter = u.arbiter := rfl
@[simp] theorem purgeRecent_controller (u : Bn24) : (purgeRecent u).controller = u.controller := rfl
@[simp] theorem purgeRecent_detection (u : Bn24) : (purgeRecent u).detection = u.detection := rfl
@[simp] theorem purgeRecent_port (u : Bn24) : (purgeRecent u).port = u.port := rfl
@[simp] theorem purgeRecent_handler (u : Bn24) : (purgeRecent u).handler = u.handler := rfl
@[simp] theorem purgeRecent_clock (u : Bn24) : (purgeRecent u).clock = u.clock := rfl
@[simp] theorem purgeRecent_loader (u : Bn24) : (purgeRecent u).loader = u.loader := rfl
@[simp] theorem purgeRecent_maint (u : Bn24) : (purgeRecent u).maint = u.maint := rfl

/-! ### addDeparture -/

@[simp] theorem addDeparture_resetHeld (k : Key) (u : Bn24) : (addDeparture k u).resetHeld = u.resetHeld := rfl
@[simp] theorem addDeparture_localTime (k : Key) (u : Bn24) : (addDeparture k u).localTime = u.localTime := rfl
@[simp] theorem addDeparture_table_slots (k : Key) (u : Bn24) : (addDeparture k u).table.slots = u.table.slots := rfl
@[simp] theorem addDeparture_table_evict (k : Key) (u : Bn24) : (addDeparture k u).table.evict = u.table.evict := rfl
@[simp] theorem addDeparture_table_recent (k : Key) (u : Bn24) :
    (addDeparture k u).table.recent = withDeparture k u.localTime u.table.recent := rfl
@[simp] theorem addDeparture_table_requests (k : Key) (u : Bn24) :
    (addDeparture k u).table.requests = u.table.requests := rfl
@[simp] theorem addDeparture_arbiter (k : Key) (u : Bn24) : (addDeparture k u).arbiter = u.arbiter := rfl
@[simp] theorem addDeparture_controller (k : Key) (u : Bn24) : (addDeparture k u).controller = u.controller := rfl
@[simp] theorem addDeparture_detection (k : Key) (u : Bn24) : (addDeparture k u).detection = u.detection := rfl
@[simp] theorem addDeparture_port (k : Key) (u : Bn24) : (addDeparture k u).port = u.port := rfl
@[simp] theorem addDeparture_handler (k : Key) (u : Bn24) : (addDeparture k u).handler = u.handler := rfl
@[simp] theorem addDeparture_clock (k : Key) (u : Bn24) : (addDeparture k u).clock = u.clock := rfl
@[simp] theorem addDeparture_loader (k : Key) (u : Bn24) : (addDeparture k u).loader = u.loader := rfl
@[simp] theorem addDeparture_maint (k : Key) (u : Bn24) : (addDeparture k u).maint = u.maint := rfl

/-! ### movePointer -/

@[simp] theorem movePointer_resetHeld (v : SlotIx) (u : Bn24) : (movePointer v u).resetHeld = u.resetHeld := rfl
@[simp] theorem movePointer_localTime (v : SlotIx) (u : Bn24) : (movePointer v u).localTime = u.localTime := rfl
@[simp] theorem movePointer_table_slots (v : SlotIx) (u : Bn24) : (movePointer v u).table.slots = u.table.slots := rfl
@[simp] theorem movePointer_table_evict (v : SlotIx) (u : Bn24) : (movePointer v u).table.evict = v + 1 := rfl
@[simp] theorem movePointer_table_recent (v : SlotIx) (u : Bn24) :
    (movePointer v u).table.recent = u.table.recent := rfl
@[simp] theorem movePointer_table_requests (v : SlotIx) (u : Bn24) :
    (movePointer v u).table.requests = u.table.requests := rfl
@[simp] theorem movePointer_arbiter (v : SlotIx) (u : Bn24) : (movePointer v u).arbiter = u.arbiter := rfl
@[simp] theorem movePointer_controller (v : SlotIx) (u : Bn24) : (movePointer v u).controller = u.controller := rfl
@[simp] theorem movePointer_detection (v : SlotIx) (u : Bn24) : (movePointer v u).detection = u.detection := rfl
@[simp] theorem movePointer_port (v : SlotIx) (u : Bn24) : (movePointer v u).port = u.port := rfl
@[simp] theorem movePointer_handler (v : SlotIx) (u : Bn24) : (movePointer v u).handler = u.handler := rfl
@[simp] theorem movePointer_clock (v : SlotIx) (u : Bn24) : (movePointer v u).clock = u.clock := rfl
@[simp] theorem movePointer_loader (v : SlotIx) (u : Bn24) : (movePointer v u).loader = u.loader := rfl
@[simp] theorem movePointer_maint (v : SlotIx) (u : Bn24) : (movePointer v u).maint = u.maint := rfl

/-! ### takeInbox -/

@[simp] theorem takeInbox_resetHeld (u : Bn24) : (takeInbox u).resetHeld = u.resetHeld := rfl
@[simp] theorem takeInbox_localTime (u : Bn24) : (takeInbox u).localTime = u.localTime := rfl
@[simp] theorem takeInbox_table_slots (u : Bn24) : (takeInbox u).table.slots = u.table.slots := rfl
@[simp] theorem takeInbox_table_evict (u : Bn24) : (takeInbox u).table.evict = u.table.evict := rfl
@[simp] theorem takeInbox_table_recent (u : Bn24) : (takeInbox u).table.recent = u.table.recent := rfl
@[simp] theorem takeInbox_table_requests (u : Bn24) : (takeInbox u).table.requests = u.table.requests.tail := rfl
@[simp] theorem takeInbox_arbiter (u : Bn24) : (takeInbox u).arbiter = u.arbiter := rfl
@[simp] theorem takeInbox_controller (u : Bn24) : (takeInbox u).controller = u.controller := rfl
@[simp] theorem takeInbox_detection_framing (u : Bn24) : (takeInbox u).detection.framing = u.detection.framing := rfl
@[simp] theorem takeInbox_detection_inbox (u : Bn24) : (takeInbox u).detection.inbox = u.detection.inbox.tail := rfl
@[simp] theorem takeInbox_port (u : Bn24) : (takeInbox u).port = u.port := rfl
@[simp] theorem takeInbox_handler (u : Bn24) : (takeInbox u).handler = u.handler := rfl
@[simp] theorem takeInbox_clock (u : Bn24) : (takeInbox u).clock = u.clock := rfl
@[simp] theorem takeInbox_loader (u : Bn24) : (takeInbox u).loader = u.loader := rfl
@[simp] theorem takeInbox_maint (u : Bn24) : (takeInbox u).maint = u.maint := rfl

/-! ### setLinkFraming -/

@[simp] theorem setLinkFraming_resetHeld (f : Framing) (u : Bn24) : (setLinkFraming f u).resetHeld = u.resetHeld := rfl
@[simp] theorem setLinkFraming_localTime (f : Framing) (u : Bn24) : (setLinkFraming f u).localTime = u.localTime := rfl
@[simp] theorem setLinkFraming_table (f : Framing) (u : Bn24) : (setLinkFraming f u).table = u.table := rfl
@[simp] theorem setLinkFraming_arbiter (f : Framing) (u : Bn24) : (setLinkFraming f u).arbiter = u.arbiter := rfl
@[simp] theorem setLinkFraming_controller_phase (f : Framing) (u : Bn24) :
    (setLinkFraming f u).controller.phase = u.controller.phase := rfl
@[simp] theorem setLinkFraming_controller_framing (f : Framing) (u : Bn24) :
    (setLinkFraming f u).controller.framing = f := rfl
@[simp] theorem setLinkFraming_controller_silent (f : Framing) (u : Bn24) :
    (setLinkFraming f u).controller.silent = u.controller.silent := rfl
@[simp] theorem setLinkFraming_controller_silenceStart (f : Framing) (u : Bn24) :
    (setLinkFraming f u).controller.silenceStart = u.controller.silenceStart := rfl
@[simp] theorem setLinkFraming_controller_sending (f : Framing) (u : Bn24) :
    (setLinkFraming f u).controller.sending = u.controller.sending := rfl
@[simp] theorem setLinkFraming_controller_waiting (f : Framing) (u : Bn24) :
    (setLinkFraming f u).controller.waiting = u.controller.waiting := rfl
@[simp] theorem setLinkFraming_detection (f : Framing) (u : Bn24) : (setLinkFraming f u).detection = u.detection := rfl
@[simp] theorem setLinkFraming_port (f : Framing) (u : Bn24) : (setLinkFraming f u).port = u.port := rfl
@[simp] theorem setLinkFraming_handler (f : Framing) (u : Bn24) : (setLinkFraming f u).handler = u.handler := rfl
@[simp] theorem setLinkFraming_clock (f : Framing) (u : Bn24) : (setLinkFraming f u).clock = u.clock := rfl
@[simp] theorem setLinkFraming_loader (f : Framing) (u : Bn24) : (setLinkFraming f u).loader = u.loader := rfl
@[simp] theorem setLinkFraming_maint (f : Framing) (u : Bn24) : (setLinkFraming f u).maint = u.maint := rfl

/-! ### restartSilence -/

@[simp] theorem restartSilence_resetHeld (u : Bn24) : (restartSilence u).resetHeld = u.resetHeld := rfl
@[simp] theorem restartSilence_localTime (u : Bn24) : (restartSilence u).localTime = u.localTime := rfl
@[simp] theorem restartSilence_table (u : Bn24) : (restartSilence u).table = u.table := rfl
@[simp] theorem restartSilence_arbiter (u : Bn24) : (restartSilence u).arbiter = u.arbiter := rfl
@[simp] theorem restartSilence_controller_phase (u : Bn24) :
    (restartSilence u).controller.phase = u.controller.phase := rfl
@[simp] theorem restartSilence_controller_framing (u : Bn24) :
    (restartSilence u).controller.framing = u.controller.framing := rfl
@[simp] theorem restartSilence_controller_silent (u : Bn24) :
    (restartSilence u).controller.silent = u.controller.silent := rfl
@[simp] theorem restartSilence_controller_silenceStart (u : Bn24) :
    (restartSilence u).controller.silenceStart = some u.localTime := rfl
@[simp] theorem restartSilence_controller_sending (u : Bn24) :
    (restartSilence u).controller.sending = u.controller.sending := rfl
@[simp] theorem restartSilence_controller_waiting (u : Bn24) :
    (restartSilence u).controller.waiting = u.controller.waiting := rfl
@[simp] theorem restartSilence_detection (u : Bn24) : (restartSilence u).detection = u.detection := rfl
@[simp] theorem restartSilence_port (u : Bn24) : (restartSilence u).port = u.port := rfl
@[simp] theorem restartSilence_handler (u : Bn24) : (restartSilence u).handler = u.handler := rfl
@[simp] theorem restartSilence_clock (u : Bn24) : (restartSilence u).clock = u.clock := rfl
@[simp] theorem restartSilence_loader (u : Bn24) : (restartSilence u).loader = u.loader := rfl
@[simp] theorem restartSilence_maint (u : Bn24) : (restartSilence u).maint = u.maint := rfl

/-! ### setPhase -/

@[simp] theorem setPhase_resetHeld (a : ApproachIx) (v : PhaseRecord) (u : Bn24) : (setPhase a v u).resetHeld = u.resetHeld := rfl
@[simp] theorem setPhase_localTime (a : ApproachIx) (v : PhaseRecord) (u : Bn24) : (setPhase a v u).localTime = u.localTime := rfl
@[simp] theorem setPhase_table (a : ApproachIx) (v : PhaseRecord) (u : Bn24) : (setPhase a v u).table = u.table := rfl
@[simp] theorem setPhase_arbiter (a : ApproachIx) (v : PhaseRecord) (u : Bn24) : (setPhase a v u).arbiter = u.arbiter := rfl
@[simp] theorem setPhase_controller_phase (a : ApproachIx) (v : PhaseRecord) (u : Bn24) :
    (setPhase a v u).controller.phase = u.controller.phase.set a (some v) := rfl
@[simp] theorem setPhase_controller_framing (a : ApproachIx) (v : PhaseRecord) (u : Bn24) :
    (setPhase a v u).controller.framing = u.controller.framing := rfl
@[simp] theorem setPhase_controller_silent (a : ApproachIx) (v : PhaseRecord) (u : Bn24) :
    (setPhase a v u).controller.silent = u.controller.silent := rfl
@[simp] theorem setPhase_controller_silenceStart (a : ApproachIx) (v : PhaseRecord) (u : Bn24) :
    (setPhase a v u).controller.silenceStart = u.controller.silenceStart := rfl
@[simp] theorem setPhase_controller_sending (a : ApproachIx) (v : PhaseRecord) (u : Bn24) :
    (setPhase a v u).controller.sending = u.controller.sending := rfl
@[simp] theorem setPhase_controller_waiting (a : ApproachIx) (v : PhaseRecord) (u : Bn24) :
    (setPhase a v u).controller.waiting = u.controller.waiting := rfl
@[simp] theorem setPhase_detection (a : ApproachIx) (v : PhaseRecord) (u : Bn24) : (setPhase a v u).detection = u.detection := rfl
@[simp] theorem setPhase_port (a : ApproachIx) (v : PhaseRecord) (u : Bn24) : (setPhase a v u).port = u.port := rfl
@[simp] theorem setPhase_handler (a : ApproachIx) (v : PhaseRecord) (u : Bn24) : (setPhase a v u).handler = u.handler := rfl
@[simp] theorem setPhase_clock (a : ApproachIx) (v : PhaseRecord) (u : Bn24) : (setPhase a v u).clock = u.clock := rfl
@[simp] theorem setPhase_loader (a : ApproachIx) (v : PhaseRecord) (u : Bn24) : (setPhase a v u).loader = u.loader := rfl
@[simp] theorem setPhase_maint (a : ApproachIx) (v : PhaseRecord) (u : Bn24) : (setPhase a v u).maint = u.maint := rfl

/-! ### setDetFraming -/

@[simp] theorem setDetFraming_resetHeld (f : Framing) (u : Bn24) : (setDetFraming f u).resetHeld = u.resetHeld := rfl
@[simp] theorem setDetFraming_localTime (f : Framing) (u : Bn24) : (setDetFraming f u).localTime = u.localTime := rfl
@[simp] theorem setDetFraming_table (f : Framing) (u : Bn24) : (setDetFraming f u).table = u.table := rfl
@[simp] theorem setDetFraming_arbiter (f : Framing) (u : Bn24) : (setDetFraming f u).arbiter = u.arbiter := rfl
@[simp] theorem setDetFraming_controller (f : Framing) (u : Bn24) : (setDetFraming f u).controller = u.controller := rfl
@[simp] theorem setDetFraming_detection_framing (f : Framing) (u : Bn24) :
    (setDetFraming f u).detection.framing = f := rfl
@[simp] theorem setDetFraming_detection_inbox (f : Framing) (u : Bn24) :
    (setDetFraming f u).detection.inbox = u.detection.inbox := rfl
@[simp] theorem setDetFraming_port (f : Framing) (u : Bn24) : (setDetFraming f u).port = u.port := rfl
@[simp] theorem setDetFraming_handler (f : Framing) (u : Bn24) : (setDetFraming f u).handler = u.handler := rfl
@[simp] theorem setDetFraming_clock (f : Framing) (u : Bn24) : (setDetFraming f u).clock = u.clock := rfl
@[simp] theorem setDetFraming_loader (f : Framing) (u : Bn24) : (setDetFraming f u).loader = u.loader := rfl
@[simp] theorem setDetFraming_maint (f : Framing) (u : Bn24) : (setDetFraming f u).maint = u.maint := rfl

/-! ### popHandlerRequest -/

@[simp] theorem popHandlerRequest_resetHeld (u : Bn24) : (popHandlerRequest u).resetHeld = u.resetHeld := rfl
@[simp] theorem popHandlerRequest_localTime (u : Bn24) : (popHandlerRequest u).localTime = u.localTime := rfl
@[simp] theorem popHandlerRequest_table (u : Bn24) : (popHandlerRequest u).table = u.table := rfl
@[simp] theorem popHandlerRequest_arbiter (u : Bn24) : (popHandlerRequest u).arbiter = u.arbiter := rfl
@[simp] theorem popHandlerRequest_controller (u : Bn24) : (popHandlerRequest u).controller = u.controller := rfl
@[simp] theorem popHandlerRequest_detection (u : Bn24) : (popHandlerRequest u).detection = u.detection := rfl
@[simp] theorem popHandlerRequest_port (u : Bn24) : (popHandlerRequest u).port = u.port := rfl
@[simp] theorem popHandlerRequest_handler_requests (u : Bn24) :
    (popHandlerRequest u).handler.requests = u.handler.requests.tail := rfl
@[simp] theorem popHandlerRequest_handler_frames (u : Bn24) :
    (popHandlerRequest u).handler.frames = u.handler.frames := rfl
@[simp] theorem popHandlerRequest_clock (u : Bn24) : (popHandlerRequest u).clock = u.clock := rfl
@[simp] theorem popHandlerRequest_loader (u : Bn24) : (popHandlerRequest u).loader = u.loader := rfl
@[simp] theorem popHandlerRequest_maint (u : Bn24) : (popHandlerRequest u).maint = u.maint := rfl

/-! ### popHandlerFrame -/

@[simp] theorem popHandlerFrame_resetHeld (u : Bn24) : (popHandlerFrame u).resetHeld = u.resetHeld := rfl
@[simp] theorem popHandlerFrame_localTime (u : Bn24) : (popHandlerFrame u).localTime = u.localTime := rfl
@[simp] theorem popHandlerFrame_table (u : Bn24) : (popHandlerFrame u).table = u.table := rfl
@[simp] theorem popHandlerFrame_arbiter (u : Bn24) : (popHandlerFrame u).arbiter = u.arbiter := rfl
@[simp] theorem popHandlerFrame_controller (u : Bn24) : (popHandlerFrame u).controller = u.controller := rfl
@[simp] theorem popHandlerFrame_detection (u : Bn24) : (popHandlerFrame u).detection = u.detection := rfl
@[simp] theorem popHandlerFrame_port (u : Bn24) : (popHandlerFrame u).port = u.port := rfl
@[simp] theorem popHandlerFrame_handler_requests (u : Bn24) :
    (popHandlerFrame u).handler.requests = u.handler.requests := rfl
@[simp] theorem popHandlerFrame_handler_frames (u : Bn24) :
    (popHandlerFrame u).handler.frames = u.handler.frames.tail := rfl
@[simp] theorem popHandlerFrame_clock (u : Bn24) : (popHandlerFrame u).clock = u.clock := rfl
@[simp] theorem popHandlerFrame_loader (u : Bn24) : (popHandlerFrame u).loader = u.loader := rfl
@[simp] theorem popHandlerFrame_maint (u : Bn24) : (popHandlerFrame u).maint = u.maint := rfl

/-! ### setPort -/

@[simp] theorem setPort_resetHeld (f : CorridorPort → CorridorPort) (u : Bn24) : (setPort f u).resetHeld = u.resetHeld := rfl
@[simp] theorem setPort_localTime (f : CorridorPort → CorridorPort) (u : Bn24) : (setPort f u).localTime = u.localTime := rfl
@[simp] theorem setPort_table (f : CorridorPort → CorridorPort) (u : Bn24) : (setPort f u).table = u.table := rfl
@[simp] theorem setPort_arbiter (f : CorridorPort → CorridorPort) (u : Bn24) : (setPort f u).arbiter = u.arbiter := rfl
@[simp] theorem setPort_controller (f : CorridorPort → CorridorPort) (u : Bn24) : (setPort f u).controller = u.controller := rfl
@[simp] theorem setPort_detection (f : CorridorPort → CorridorPort) (u : Bn24) : (setPort f u).detection = u.detection := rfl
@[simp] theorem setPort_port (f : CorridorPort → CorridorPort) (u : Bn24) : (setPort f u).port = f u.port := rfl
@[simp] theorem setPort_handler (f : CorridorPort → CorridorPort) (u : Bn24) : (setPort f u).handler = u.handler := rfl
@[simp] theorem setPort_clock (f : CorridorPort → CorridorPort) (u : Bn24) : (setPort f u).clock = u.clock := rfl
@[simp] theorem setPort_loader (f : CorridorPort → CorridorPort) (u : Bn24) : (setPort f u).loader = u.loader := rfl
@[simp] theorem setPort_maint (f : CorridorPort → CorridorPort) (u : Bn24) : (setPort f u).maint = u.maint := rfl

/-! ### setClock -/

@[simp] theorem setClock_resetHeld (f : TimeUnit → TimeUnit) (u : Bn24) : (setClock f u).resetHeld = u.resetHeld := rfl
@[simp] theorem setClock_localTime (f : TimeUnit → TimeUnit) (u : Bn24) : (setClock f u).localTime = u.localTime := rfl
@[simp] theorem setClock_table (f : TimeUnit → TimeUnit) (u : Bn24) : (setClock f u).table = u.table := rfl
@[simp] theorem setClock_arbiter (f : TimeUnit → TimeUnit) (u : Bn24) : (setClock f u).arbiter = u.arbiter := rfl
@[simp] theorem setClock_controller (f : TimeUnit → TimeUnit) (u : Bn24) : (setClock f u).controller = u.controller := rfl
@[simp] theorem setClock_detection (f : TimeUnit → TimeUnit) (u : Bn24) : (setClock f u).detection = u.detection := rfl
@[simp] theorem setClock_port (f : TimeUnit → TimeUnit) (u : Bn24) : (setClock f u).port = u.port := rfl
@[simp] theorem setClock_handler (f : TimeUnit → TimeUnit) (u : Bn24) : (setClock f u).handler = u.handler := rfl
@[simp] theorem setClock_clock (f : TimeUnit → TimeUnit) (u : Bn24) : (setClock f u).clock = f u.clock := rfl
@[simp] theorem setClock_loader (f : TimeUnit → TimeUnit) (u : Bn24) : (setClock f u).loader = u.loader := rfl
@[simp] theorem setClock_maint (f : TimeUnit → TimeUnit) (u : Bn24) : (setClock f u).maint = u.maint := rfl

/-! ### setLoader -/

@[simp] theorem setLoader_resetHeld (f : Loader → Loader) (u : Bn24) : (setLoader f u).resetHeld = u.resetHeld := rfl
@[simp] theorem setLoader_localTime (f : Loader → Loader) (u : Bn24) : (setLoader f u).localTime = u.localTime := rfl
@[simp] theorem setLoader_table (f : Loader → Loader) (u : Bn24) : (setLoader f u).table = u.table := rfl
@[simp] theorem setLoader_arbiter (f : Loader → Loader) (u : Bn24) : (setLoader f u).arbiter = u.arbiter := rfl
@[simp] theorem setLoader_controller (f : Loader → Loader) (u : Bn24) : (setLoader f u).controller = u.controller := rfl
@[simp] theorem setLoader_detection (f : Loader → Loader) (u : Bn24) : (setLoader f u).detection = u.detection := rfl
@[simp] theorem setLoader_port (f : Loader → Loader) (u : Bn24) : (setLoader f u).port = u.port := rfl
@[simp] theorem setLoader_handler (f : Loader → Loader) (u : Bn24) : (setLoader f u).handler = u.handler := rfl
@[simp] theorem setLoader_clock (f : Loader → Loader) (u : Bn24) : (setLoader f u).clock = u.clock := rfl
@[simp] theorem setLoader_loader (f : Loader → Loader) (u : Bn24) : (setLoader f u).loader = f u.loader := rfl
@[simp] theorem setLoader_maint (f : Loader → Loader) (u : Bn24) : (setLoader f u).maint = u.maint := rfl

/-! ### setMaint -/

@[simp] theorem setMaint_resetHeld (f : Maintenance → Maintenance) (u : Bn24) : (setMaint f u).resetHeld = u.resetHeld := rfl
@[simp] theorem setMaint_localTime (f : Maintenance → Maintenance) (u : Bn24) : (setMaint f u).localTime = u.localTime := rfl
@[simp] theorem setMaint_table (f : Maintenance → Maintenance) (u : Bn24) : (setMaint f u).table = u.table := rfl
@[simp] theorem setMaint_arbiter (f : Maintenance → Maintenance) (u : Bn24) : (setMaint f u).arbiter = u.arbiter := rfl
@[simp] theorem setMaint_controller (f : Maintenance → Maintenance) (u : Bn24) : (setMaint f u).controller = u.controller := rfl
@[simp] theorem setMaint_detection (f : Maintenance → Maintenance) (u : Bn24) : (setMaint f u).detection = u.detection := rfl
@[simp] theorem setMaint_port (f : Maintenance → Maintenance) (u : Bn24) : (setMaint f u).port = u.port := rfl
@[simp] theorem setMaint_handler (f : Maintenance → Maintenance) (u : Bn24) : (setMaint f u).handler = u.handler := rfl
@[simp] theorem setMaint_clock (f : Maintenance → Maintenance) (u : Bn24) : (setMaint f u).clock = u.clock := rfl
@[simp] theorem setMaint_loader (f : Maintenance → Maintenance) (u : Bn24) : (setMaint f u).loader = u.loader := rfl
@[simp] theorem setMaint_maint (f : Maintenance → Maintenance) (u : Bn24) : (setMaint f u).maint = f u.maint := rfl

/-! ### Updates of an entry -/

@[simp] theorem toWaiting_key (e : Entry) : (toWaiting e).key = e.key := rfl
@[simp] theorem toWaiting_confirmation (e : Entry) : (toWaiting e).confirmation = e.confirmation := rfl
@[simp] theorem toWaiting_approach (e : Entry) : (toWaiting e).approach = e.approach := rfl
@[simp] theorem toWaiting_chain (e : Entry) : (toWaiting e).chain = e.chain := rfl
@[simp] theorem toWaiting_grade (e : Entry) : (toWaiting e).grade = e.grade := rfl
@[simp] theorem toWaiting_window (e : Entry) : (toWaiting e).window = e.window := rfl
@[simp] theorem toWaiting_quality (e : Entry) : (toWaiting e).quality = e.quality := rfl
@[simp] theorem toWaiting_updated (e : Entry) : (toWaiting e).updated = e.updated := rfl
@[simp] theorem toWaiting_service (e : Entry) : (toWaiting e).service = .waiting := rfl
@[simp] theorem toWaiting_decision (e : Entry) : (toWaiting e).decision = none := rfl
@[simp] theorem toWaiting_declined (e : Entry) : (toWaiting e).declined = e.declined := rfl
@[simp] theorem toWaiting_served (e : Entry) : (toWaiting e).served = e.served := rfl

@[simp] theorem ridingEntry_key (e : Entry) : (ridingEntry e).key = e.key := rfl
@[simp] theorem ridingEntry_confirmation (e : Entry) : (ridingEntry e).confirmation = e.confirmation := rfl
@[simp] theorem ridingEntry_approach (e : Entry) : (ridingEntry e).approach = e.approach := rfl
@[simp] theorem ridingEntry_chain (e : Entry) : (ridingEntry e).chain = e.chain := rfl
@[simp] theorem ridingEntry_grade (e : Entry) : (ridingEntry e).grade = e.grade := rfl
@[simp] theorem ridingEntry_window (e : Entry) : (ridingEntry e).window = e.window := rfl
@[simp] theorem ridingEntry_quality (e : Entry) : (ridingEntry e).quality = e.quality := rfl
@[simp] theorem ridingEntry_updated (e : Entry) : (ridingEntry e).updated = e.updated := rfl
@[simp] theorem ridingEntry_service (e : Entry) : (ridingEntry e).service = .riding := rfl
@[simp] theorem ridingEntry_decision (e : Entry) : (ridingEntry e).decision = none := rfl
@[simp] theorem ridingEntry_declined (e : Entry) : (ridingEntry e).declined = e.declined := rfl
@[simp] theorem ridingEntry_served (e : Entry) : (ridingEntry e).served = true := rfl

@[simp] theorem promote_key (g : Grant) (e : Entry) : (promote g e).key = e.key := rfl
@[simp] theorem promote_confirmation (g : Grant) (e : Entry) : (promote g e).confirmation = e.confirmation := rfl
@[simp] theorem promote_approach (g : Grant) (e : Entry) : (promote g e).approach = e.approach := rfl
@[simp] theorem promote_chain (g : Grant) (e : Entry) : (promote g e).chain = e.chain := rfl
@[simp] theorem promote_grade (g : Grant) (e : Entry) : (promote g e).grade = e.grade := rfl
@[simp] theorem promote_window (g : Grant) (e : Entry) : (promote g e).window = e.window := rfl
@[simp] theorem promote_quality (g : Grant) (e : Entry) : (promote g e).quality = e.quality := rfl
@[simp] theorem promote_updated (g : Grant) (e : Entry) : (promote g e).updated = e.updated := rfl
@[simp] theorem promote_service (g : Grant) (e : Entry) : (promote g e).service = .granted := rfl
@[simp] theorem promote_decision (g : Grant) (e : Entry) :
    (promote g e).decision = some { kind := g.kind, amount := g.amount, isPartial := g.isPartial } := rfl
@[simp] theorem promote_declined (g : Grant) (e : Entry) : (promote g e).declined = e.declined := rfl
@[simp] theorem promote_served (g : Grant) (e : Entry) : (promote g e).served = e.served := rfl

@[simp] theorem markDeclined_key (u : Bn24) (e : Entry) : (markDeclined u e).key = e.key := rfl
@[simp] theorem markDeclined_confirmation (u : Bn24) (e : Entry) :
    (markDeclined u e).confirmation = e.confirmation := rfl
@[simp] theorem markDeclined_approach (u : Bn24) (e : Entry) : (markDeclined u e).approach = e.approach := rfl
@[simp] theorem markDeclined_chain (u : Bn24) (e : Entry) : (markDeclined u e).chain = e.chain := rfl
@[simp] theorem markDeclined_grade (u : Bn24) (e : Entry) : (markDeclined u e).grade = e.grade := rfl
@[simp] theorem markDeclined_window (u : Bn24) (e : Entry) : (markDeclined u e).window = e.window := rfl
@[simp] theorem markDeclined_quality (u : Bn24) (e : Entry) : (markDeclined u e).quality = e.quality := rfl
@[simp] theorem markDeclined_updated (u : Bn24) (e : Entry) : (markDeclined u e).updated = e.updated := rfl
@[simp] theorem markDeclined_service (u : Bn24) (e : Entry) : (markDeclined u e).service = .waiting := rfl
@[simp] theorem markDeclined_decision (u : Bn24) (e : Entry) : (markDeclined u e).decision = none := rfl
@[simp] theorem markDeclined_declined (u : Bn24) (e : Entry) :
    (markDeclined u e).declined = some (signalClassOf u e.approach) := rfl
@[simp] theorem markDeclined_served (u : Bn24) (e : Entry) : (markDeclined u e).served = e.served := rfl

end Sys2Proof.Machine
end

