-- ==== Sys2Proof/Laws/Ops.lean ====
section
/-! SUPPORT. One lemma for each shared operation that says once what it can do, and its frame. -/

namespace Sys2Proof.Machine

/-! ### The form of a meaning -/

/-- Out of reset a command's effect is applied, and the queue is left alone. -/
theorem unlessReset_active (f : Bn24 → Bn24) (s : State) (h : s.unit.resetHeld = false) :
    unlessReset f s = .next { s with unit := f s.unit } := by
  simp [unlessReset, h]

/-- In reset a command has no effect. -/
theorem unlessReset_held (f : Bn24 → Bn24) (s : State) (h : s.unit.resetHeld = true) : unlessReset f s = .next s := by
  simp [unlessReset, h]

/-- What unlessReset answers: a next state whose unit is either the old one or the changed one. -/
theorem unlessReset_next {f : Bn24 → Bn24} {s t : State} (h : unlessReset f s = .next t) :
    t.pending = s.pending ∧
      ((s.unit.resetHeld = true ∧ t.unit = s.unit) ∨ (s.unit.resetHeld = false ∧ t.unit = f s.unit)) := by
  unfold unlessReset at h
  injection h with h
  subst h
  cases hr : s.unit.resetHeld <;> simp

theorem isRunning_iff (u : Bn24) : isRunning u = true ↔ u.loader.run = .running := by simp [isRunning]

/-! ### Times and amounts -/

/-- Clamping into a range that is not empty. -/
theorem clamp_eq (lo hi x : Nat) (h : lo ≤ hi) : clamp lo hi x = max lo (min hi x) := by
  unfold clamp; split <;> [skip; split] <;> omega

/-- Signed clamping into a range that is not empty. -/
theorem clampInt_eq (lo hi x : Int) (h : lo ≤ hi) : clampInt lo hi x = max lo (min hi x) := by
  unfold clampInt; split <;> [skip; split] <;> omega

/-- A clamped value lies in the range. -/
theorem clamp_bounds (lo hi x : Nat) (h : lo ≤ hi) : lo ≤ clamp lo hi x ∧ clamp lo hi x ≤ hi := by
  rw [clamp_eq lo hi x h]; omega

/-- The least whole number whose product with b is not less than a. -/
theorem ceilDiv_le_iff (a b n : Nat) (h : 0 < b) : ceilDiv a b ≤ n ↔ a ≤ n * b := by
  unfold ceilDiv
  rw [← Nat.lt_add_one_iff, Nat.div_lt_iff_lt_mul h, Nat.add_mul]
  omega

/-- A rounded amount is a multiple of 10, not less, and less than 10 more. -/
theorem roundUpTen_spec (n : Nat) : n ≤ roundUpTen n ∧ roundUpTen n < n + 10 ∧ roundUpTen n % 10 = 0 := by
  unfold roundUpTen ceilDiv; omega

/-- The value of a difference of times within the signed range. -/
theorem timeDiff_eq_bmod (x y : Time) : timeDiff x y = ((x.toNat : Int) - y.toNat).bmod (2 ^ 24) := by
  unfold timeDiff
  rw [BitVec.toInt_sub, BitVec.toInt_eq_toNat_bmod, BitVec.toInt_eq_toNat_bmod]
  simp [Int.sub_bmod_bmod, Int.bmod_sub_bmod]

/-- A time moved on by less than half the range lies that many ds after. -/
theorem timeDiff_add (t : Time) (n : Int) (h : -8388608 ≤ n) (h' : n ≤ 8388607) :
    timeDiff (t + BitVec.ofInt 24 n) t = n := by
  unfold timeDiff
  have : t + BitVec.ofInt 24 n - t = BitVec.ofInt 24 n := by rw [BitVec.add_comm]; exact BitVec.add_sub_cancel _ _
  rw [this, BitVec.toInt_ofInt]
  exact Int.bmod_eq_of_le (by norm_num; omega) (by norm_num; omega)

@[simp] theorem timeDiff_self (t : Time) : timeDiff t t = 0 := by simp [timeDiff]

/-- A difference determines a time. -/
theorem eq_add_timeDiff (x y : Time) : x = y + BitVec.ofInt 24 (timeDiff x y) := by
  unfold timeDiff; rw [BitVec.ofInt_toInt, BitVec.add_comm, BitVec.sub_add_cancel]

/-! ### Counters and flags -/

theorem Counter.ix_injective : Function.Injective Counter.ix := by
  intro a b h; cases a <;> cases b <;> first | rfl | exact absurd h (by decide)

theorem Flag.bit_lt (f : Flag) : f.bit < 10 := by cases f <;> decide

theorem Flag.bit_injective : Function.Injective Flag.bit := by
  intro a b h; cases a <;> cases b <;> first | rfl | exact absurd h (by decide)

/-- What counting does to a counter. -/
theorem counterOf_count (c k : Counter) (u : Bn24) :
    counterOf k (count c u) = if c = k then satInc (counterOf c u) else counterOf k u := by
  unfold counterOf
  by_cases h : c = k
  · subst h; simp [count]
  · have : c.ix.val ≠ k.ix.val := fun hh => h (Counter.ix_injective (Fin.ext hh))
    simp [count, h, this]

@[simp] theorem counterOf_flag (f : Flag) (k : Counter) (u : Bn24) : counterOf k (flag f u) = counterOf k u := rfl

/-- What flagging does to a flag. -/
theorem flagSet_flag (f g : Flag) (u : Bn24) : flagSet g (flag f u) = (decide (f = g) || flagSet g u) := by
  unfold flagSet
  have hg := g.bit_lt
  have hf := f.bit_lt
  by_cases h : f = g
  · subst h
    simp [flag, BitVec.getLsbD_shiftLeft]; omega
  · have : f.bit ≠ g.bit := fun hh => h (Flag.bit_injective hh)
    have h2 : (1#16 <<< f.bit).getLsbD g.bit = false := by
      cases f <;> cases g <;> first | rfl | exact absurd rfl h
    simp [flag, h, h2]

@[simp] theorem flagSet_count (c : Counter) (g : Flag) (u : Bn24) : flagSet g (count c u) = flagSet g u := rfl

/-- An increment never lowers a counter. -/
theorem le_satInc (x : Half) : x.toNat ≤ (satInc x).toNat := by
  unfold satInc
  split
  · omega
  · rename_i h
    have : x.toNat ≠ 65535 := fun hh => h (BitVec.eq_of_toNat_eq (by simpa using hh))
    have := x.isLt
    rw [BitVec.toNat_add]; simp; omega

/-- Counting never lowers a counter. -/
theorem counterOf_le_count (c k : Counter) (u : Bn24) : (counterOf k u).toNat ≤ (counterOf k (count c u)).toNat := by
  rw [counterOf_count]; split
  · rename_i h; subst h; exact le_satInc _
  · exact le_refl _

/-- Counting several times changes nothing but the maintenance block. -/
theorem countTimes_frame (c : Counter) (n : Nat) (u : Bn24) :
    countTimes c n u = { u with maint := (countTimes c n u).maint } := by
  induction n generalizing u with
  | zero => rfl
  | succ n ih => rw [countTimes, ih]; rfl

/-- Counting several times changes nothing of the maintenance block but the counters. -/
theorem countTimes_maint (c : Counter) (n : Nat) (u : Bn24) :
    (countTimes c n u).maint = { u.maint with counters := (countTimes c n u).maint.counters } := by
  induction n generalizing u with
  | zero => rfl
  | succ n ih => rw [countTimes, ih]; rfl

/-- Counting several times never lowers a counter. -/
theorem counterOf_le_countTimes (c k : Counter) (n : Nat) (u : Bn24) :
    (counterOf k u).toNat ≤ (counterOf k (countTimes c n u)).toNat := by
  induction n generalizing u with
  | zero => exact le_refl _
  | succ n ih => exact le_trans (counterOf_le_count c k u) (ih _)

/-! ### Slots of the approach table -/

@[simp] theorem entryIn_setSlot (i j : SlotIx) (e : Option Entry) (u : Bn24) :
    entryIn (setSlot i e u) j = if i = j then e else entryIn u j := by
  unfold entryIn setSlot
  by_cases h : i = j
  · subst h; simp
  · have : i.val ≠ j.val := fun hh => h (Fin.ext hh)
    simp [h, this]

/-- Slots are read from the table alone. -/
theorem entryIn_congr {u v : Bn24} (h : u.table.slots = v.table.slots) (i : SlotIx) : entryIn u i = entryIn v i := by
  unfold entryIn; rw [h]

/-- The entry that a request names. -/
theorem entryAt_eq_some (u : Bn24) (r : EntryRef) (e : Entry) :
    entryAt u r = some e ↔ entryIn u r.slot = some e ∧ e.key = r.key := by
  unfold entryAt
  cases h : entryIn u r.slot with
  | none => simp
  | some f => by_cases hk : f.key = r.key <;> simp [hk] <;> intro hh <;> subst hh <;> simp [hk]

theorem slotHasKey_iff (u : Bn24) (k : Key) (i : SlotIx) :
    slotHasKey u k i = true ↔ ∃ e, entryIn u i = some e ∧ e.key = k := by
  unfold slotHasKey
  cases h : entryIn u i <;> simp

/-- A key that is found stands in its slot, and no lower slot holds it. -/
theorem findKey_eq_some (u : Bn24) (k : Key) (i : SlotIx) (h : findKey u k = some i) :
    ∃ e, entryIn u i = some e ∧ e.key = k :=
  (slotHasKey_iff u k i).mp (by simpa using List.find?_some h)

/-- A key that is not found stands in no slot. -/
theorem findKey_eq_none (u : Bn24) (k : Key) : findKey u k = none ↔ NoEntry u k := by
  unfold findKey
  rw [List.find?_eq_none]
  constructor
  · intro h j f hf hk
    exact h j (List.mem_finRange j) ((slotHasKey_iff u k j).mpr ⟨f, hf, hk⟩)
  · intro h j _ hh
    obtain ⟨f, hf, hk⟩ := (slotHasKey_iff u k j).mp hh
    exact h j f hf hk

/-- The one entry of a key is found. -/
theorem findKey_of_holds (u : Bn24) (k : Key) (i : SlotIx) (e : Entry) (h : HoldsKey u k i e) : findKey u k = some i := by
  cases hf : findKey u k with
  | none => exact absurd h.2.1 ((findKey_eq_none u k).mp hf i e h.1)
  | some j =>
    obtain ⟨f, hj, hk⟩ := findKey_eq_some u k j hf
    rw [h.2.2 j f hj hk]

/-- The first element of the slots, in ascending order, that meets a test. -/
theorem find_finRange_eq_some {n : Nat} (p : Fin n → Bool) (i : Fin n) :
    (List.finRange n).find? p = some i ↔ p i = true ∧ ∀ j, j < i → p j = false := by
  constructor
  · intro h
    obtain ⟨hp, as, bs, he, hn⟩ := List.find?_eq_some_iff_append.mp h
    refine ⟨hp, fun j hj => ?_⟩
    have hs : (as ++ i :: bs).Pairwise (· < ·) := by rw [← he]; exact List.pairwise_lt_finRange n
    have hm : j ∈ as ++ i :: bs := by rw [← he]; exact List.mem_finRange j
    rcases List.mem_append.mp hm with ha | hb
    · simpa using hn j ha
    · rcases List.mem_cons.mp hb with rfl | hb
      · exact absurd hj (lt_irrefl _)
      · have := (List.pairwise_cons.mp (List.pairwise_append.mp hs).2.1).1 j hb
        exact absurd hj (not_lt.mpr (le_of_lt this))
  · rintro ⟨hp, hn⟩
    cases h : (List.finRange n).find? p with
    | none => exact absurd hp (List.find?_eq_none.mp h i (List.mem_finRange i))
    | some j =>
      have hj : p j = true := by simpa using List.find?_some h
      obtain ⟨_, as, bs, he, hn'⟩ := List.find?_eq_some_iff_append.mp h
      have hs : (as ++ j :: bs).Pairwise (· < ·) := by rw [← he]; exact List.pairwise_lt_finRange n
      have hm : i ∈ as ++ j :: bs := by rw [← he]; exact List.mem_finRange i
      rcases lt_trichotomy i j with hlt | rfl | hgt
      · rcases List.mem_append.mp hm with ha | hb
        · have := hn' i ha; simp [hp] at this
        · rcases List.mem_cons.mp hb with rfl | hb
          · rfl
          · have := (List.pairwise_cons.mp (List.pairwise_append.mp hs).2.1).1 i hb
            exact absurd hlt (not_lt.mpr (le_of_lt this))
      · rfl
      · rw [hn j hgt] at hj; cases hj

/-- The lowest-index empty slot. -/
theorem lowestEmpty_eq_some (u : Bn24) (i : SlotIx) : lowestEmpty u = some i ↔ LowestEmpty u i := by
  unfold lowestEmpty LowestEmpty
  rw [find_finRange_eq_some]
  simp only [slotEmpty, Option.isNone_iff_eq_none, Bool.eq_false_iff, ne_eq]

/-- No slot is empty. -/
theorem lowestEmpty_eq_none (u : Bn24) : lowestEmpty u = none ↔ ∀ i : SlotIx, entryIn u i ≠ none := by
  unfold lowestEmpty
  simp [List.find?_eq_none, slotEmpty]

/-! ### Requests between blocks -/

/-- Requests to the table change its requests alone. -/
theorem sendTable_frame (rs : List TableRequest) (u : Bn24) :
    sendTable rs u = { u with table.requests := if isRunning u then u.table.requests ++ rs else u.table.requests } := by
  unfold sendTable; split <;> simp_all

@[simp] theorem entryIn_sendTable (rs : List TableRequest) (u : Bn24) (i : SlotIx) :
    entryIn (sendTable rs u) i = entryIn u i := by
  rw [sendTable_frame]; rfl

/-- A message handed over goes behind those that the link still has to send. -/
theorem linkMessages_handLink (m : LinkMessage) (u : Bn24) (h : u.controller.sending = none → u.controller.waiting = []) :
    linkMessages (handLink m u) = linkMessages u ++ [m] := by
  unfold linkMessages handLink
  cases hs : u.controller.sending with
  | none => simp [h hs]
  | some v => simp [hs]

/-- A message handed over changes the transmitter alone. -/
theorem handLink_frame (m : LinkMessage) (u : Bn24) :
    handLink m u = { u with controller.sending := (handLink m u).controller.sending
                            controller.waiting := (handLink m u).controller.waiting } := by
  unfold handLink; split <;> rfl

/-- After a hand-over nothing waits behind an idle transmitter. -/
theorem handLink_sending (m : LinkMessage) (u : Bn24) : (handLink m u).controller.sending ≠ none := by
  unfold handLink; split <;> simp_all

@[simp] theorem entryIn_handLink (m : LinkMessage) (u : Bn24) (i : SlotIx) : entryIn (handLink m u) i = entryIn u i := by
  rw [handLink_frame]; rfl

/-! ### Entries named by slot and key -/

/-- What a change of a named entry does to each slot. -/
theorem entryIn_modifyEntry (r : EntryRef) (f : Entry → Entry) (u : Bn24) (i : SlotIx) :
    entryIn (modifyEntry r f u) i =
      (entryIn u i).map (fun e => if r = { slot := i, key := e.key } then f e else e) := by
  unfold modifyEntry
  cases h : entryAt u r with
  | none =>
    simp only
    cases hi : entryIn u i with
    | none => rfl
    | some e =>
      have : r ≠ { slot := i, key := e.key } := by
        rintro rfl
        have := (entryAt_eq_some u { slot := i, key := e.key } e).mpr ⟨hi, rfl⟩
        rw [h] at this; cases this
      simp [this]
  | some e =>
    obtain ⟨he, hk⟩ := (entryAt_eq_some u r e).mp h
    obtain ⟨slot, key⟩ := r
    simp only at he hk
    simp only [entryIn_setSlot]
    by_cases hs : slot = i
    · subst hs; simp [he, hk]
    · simp only [hs, if_false]
      cases hi : entryIn u i with
      | none => rfl
      | some g => simp [hs]

/-- A change of a named entry changes the slots alone. -/
theorem modifyEntry_frame (r : EntryRef) (f : Entry → Entry) (u : Bn24) :
    modifyEntry r f u = { u with table.slots := (modifyEntry r f u).table.slots } := by
  unfold modifyEntry; split <;> rfl

/-- What the return of the members does to each slot. -/
theorem entryIn_returnMembers (members : List EntryRef) (u : Bn24) (i : SlotIx) :
    entryIn (returnMembers members u) i =
      (entryIn u i).map (fun e => if { slot := i, key := e.key } ∈ members then toWaiting e else e) := by
  unfold returnMembers
  induction members generalizing u with
  | nil => simp
  | cons r rest ih =>
    rw [List.foldl_cons, ih, returnToWaiting, entryIn_modifyEntry]
    cases entryIn u i with
    | none => rfl
    | some e =>
      by_cases h : r = { slot := i, key := e.key }
      · subst h; simp [toWaiting]
      · have h' : ¬ ({ slot := i, key := e.key } : EntryRef) = r := fun hh => h hh.symm
        simp [h, h']

/-- The return of the members changes the slots alone. -/
theorem returnMembers_frame (members : List EntryRef) (u : Bn24) :
    returnMembers members u = { u with table.slots := (returnMembers members u).table.slots } := by
  unfold returnMembers
  induction members generalizing u with
  | nil => rfl
  | cons r rest ih => rw [List.foldl_cons, ih, returnToWaiting, modifyEntry_frame]

/-! ### Evaluations -/

/-- An evaluation is requested of exactly the WAITING and ARMED entries that a test selects. -/
theorem mem_evaluationsOf (p : Entry → Bool) (u : Bn24) (q : TableRequest) :
    q ∈ evaluationsOf p u ↔
      ∃ i e, entryIn u i = some e ∧ evaluable e = true ∧ p e = true ∧ q = .evaluation { slot := i, key := e.key } := by
  unfold evaluationsOf
  rw [List.mem_filterMap]
  constructor
  · rintro ⟨i, _, h⟩
    cases hi : entryIn u i with
    | none => simp [hi] at h
    | some e =>
      simp only [hi] at h
      by_cases hp : (evaluable e && p e) = true
      · simp only [hp, if_true, Option.some.injEq] at h
        rw [Bool.and_eq_true] at hp
        exact ⟨i, e, hi, hp.1, hp.2, h.symm⟩
      · simp [hp] at h
  · rintro ⟨i, e, hi, he, hp, rfl⟩
    exact ⟨i, List.mem_finRange i, by simp [hi, he, hp]⟩

/-- The evaluations depend on the slots alone. -/
theorem evaluationsOf_congr (p : Entry → Bool) {u v : Bn24} (h : ∀ i, entryIn u i = entryIn v i) :
    evaluationsOf p u = evaluationsOf p v := by
  unfold evaluationsOf; simp only [h]

/-! ### Selection -/

/-- A selection does nothing or issues an offer of its choice, from a FREE slot. -/
theorem selection_cases (u : Bn24) :
    selection u = u ∨
      ∃ c, selected u = some c ∧ u.arbiter.slot = .free ∧ isRunning u = true ∧ u.controller.silent = false
        ∧ selection u = issueOffer c u := by
  unfold selection
  split
  · rename_i h
    cases hc : selected u with
    | none => exact .inl rfl
    | some c => exact .inr ⟨c, rfl, h.1, h.2.1, h.2.2, rfl⟩
  · exact .inl rfl

/-- Choosing keeps to the candidates seen. -/
theorem foldl_chooseNext (l : List Candidate) (b : Option Candidate) (c : Candidate)
    (h : l.foldl chooseNext b = some c) : c ∈ l ∨ b = some c := by
  induction l generalizing b with
  | nil => exact .inr h
  | cons x rest ih =>
    rcases ih _ h with h | h
    · exact .inl (List.mem_cons_of_mem _ h)
    · unfold chooseNext at h
      cases b with
      | none => simp only [Option.some.injEq] at h; exact .inl (by simp [h])
      | some b =>
        simp only at h
        split at h
        · simp only [Option.some.injEq] at h; exact .inl (by simp [h])
        · exact .inr h

/-- The choice is an ARMED entry with its decision. -/
theorem selected_spec (u : Bn24) (c : Candidate) (h : selected u = some c) :
    entryIn u c.slot = some c.entry ∧ c.entry.service = .armed ∧ c.entry.decision = some c.decision := by
  have hm : c ∈ candidates u := by
    rcases foldl_chooseNext _ _ _ h with h | h
    · exact h
    · cases h
  unfold candidates at hm
  obtain ⟨i, _, hi⟩ := List.mem_filterMap.mp hm
  cases he : entryIn u i with
  | none => simp [he] at hi
  | some e =>
    simp only [he] at hi
    cases hs : e.service <;> cases hd : e.decision <;> simp [hs, hd] at hi
    subst hi; exact ⟨he, hs, hd⟩

/-- What an offer changes. -/
theorem issueOffer_frame (c : Candidate) (u : Bn24) :
    ∃ sending waiting,
      issueOffer c u =
        { u with
          arbiter.slot := .offered
            { id := u.arbiter.nextId, kind := c.decision.kind, amount := c.decision.amount
              isPartial := c.decision.isPartial, approach := c.entry.approach
              entry := some { slot := c.slot, key := c.entry.key }, replyEnd := u.localTime + ds Config.replyWait }
          arbiter.nextId := nextRequestId u.arbiter.nextId
          table.slots := u.table.slots.set c.slot (some { c.entry with service := .offered })
          controller.sending := sending, controller.waiting := waiting
          maint := (count .callsOffered u).maint } := by
  cases hs : u.controller.sending with
  | none =>
    refine ⟨some (.call u.arbiter.nextId c.entry.approach c.decision.kind c.decision.amount), u.controller.waiting, ?_⟩
    simp only [issueOffer, handLink, setSlot, hs]
    rfl
  | some v =>
    refine ⟨some v,
      u.controller.waiting ++ [.call u.arbiter.nextId c.entry.approach c.decision.kind c.decision.amount], ?_⟩
    simp only [issueOffer, handLink, setSlot, hs]
    rw [← hs]
    rfl

/-! ### Members that leave -/

/-- A member that leaves: nothing, an offer or grant left behind, a new holder, or the end of the grant. -/
theorem memberLeaves_cases (r : EntryRef) (u : Bn24) :
    (memberLeaves r u = u ∧ ∀ g, u.arbiter.slot ≠ .active g)
      ∨ ∃ g, u.arbiter.slot = .active g ∧
        ((g.members.filter (fun m => decide (m ≠ r)) = [] ∧ memberLeaves r u = endGrant g u)
          ∨ ∃ m rest, g.members.filter (fun m => decide (m ≠ r)) = m :: rest ∧
            memberLeaves r u =
              if g.members.head? = some r then
                modifyEntry m (promote g) (setGrant (.active { g with members := m :: rest }) u)
              else setGrant (.active { g with members := m :: rest }) u) := by
  unfold memberLeaves
  cases h : u.arbiter.slot with
  | free => exact .inl ⟨rfl, by simp⟩
  | offered o => exact .inl ⟨rfl, by simp⟩
  | active g =>
    refine .inr ⟨g, rfl, ?_⟩
    cases hf : g.members.filter (fun m => decide (m ≠ r)) with
    | nil => exact .inl ⟨rfl, by simp only [hf]⟩
    | cons m rest => exact .inr ⟨m, rest, rfl, by simp only [hf]⟩

/-! ### The recent-departures list -/

/-- The key just added is the newest record, and the list keeps its bound. -/
theorem withDeparture_length (k : Key) (now : Time) (recent : List Departure) :
    (withDeparture k now recent).length ≤ Config.recentCapacity := by
  simp [withDeparture, Config.recentCapacity]; omega

/-- The records of a list after an addition: those of other keys among the old ones, and the new one. -/
theorem mem_withDeparture (k : Key) (now : Time) (recent : List Departure) (d : Departure)
    (h : d ∈ withDeparture k now recent) : (d ∈ recent ∧ d.key ≠ k) ∨ d = { key := k, time := now } := by
  unfold withDeparture at h
  rcases List.mem_append.mp h with h | h
  · have := List.mem_of_mem_drop h
    simp only [List.mem_filter, decide_eq_true_eq] at this
    exact .inl this
  · exact .inr (by simpa using h)

/-- An addition keeps the keys distinct. -/
theorem withDeparture_nodup (k : Key) (now : Time) (recent : List Departure) (h : (recent.map Departure.key).Nodup) :
    ((withDeparture k now recent).map Departure.key).Nodup := by
  unfold withDeparture
  rw [List.map_append, List.map_cons, List.map_nil]
  refine List.Nodup.append ?_ (by simp) ?_
  · exact (((List.drop_sublist _ _).trans List.filter_sublist).map Departure.key).nodup h
  · intro x hx hk
    simp only [List.mem_singleton] at hk
    subst hk
    obtain ⟨d, hd, hdk⟩ := List.mem_map.mp hx
    have := List.mem_of_mem_drop hd
    simp only [List.mem_filter, decide_eq_true_eq] at this
    exact this.2 hdk

/-- The list without its lapsed records is the list of the live ones. -/
theorem purgeRecent_eq (u : Bn24) : purgeRecent u = { u with table.recent := liveRecent u } := by
  have : (fun d => !lapsed u.localTime d) = (fun d => decide (age u.localTime d.time ≤ 1200)) := by
    funext d
    rw [Bool.eq_iff_iff, Bool.not_eq_true', decide_eq_true_eq, lapsed, decide_eq_false_iff_not, not_le]
    show age u.localTime d.time < 1201 ↔ _
    omega
  simp only [purgeRecent, liveRecent, this]

/-! ### The transmit queue -/

/-- A frame goes behind those of its urgency or a smaller value. -/
theorem insertFrame_eq (f : QueuedFrame) (q : List QueuedFrame) (h : q.Pairwise (fun a b => a.urgency ≤ b.urgency)) :
    insertFrame f q =
      q.filter (fun g => decide (g.urgency ≤ f.urgency)) ++ f :: q.filter (fun g => decide (f.urgency < g.urgency)) := by
  induction q with
  | nil => rfl
  | cons g rest ih =>
    obtain ⟨hg, hr⟩ := List.pairwise_cons.mp h
    unfold insertFrame
    by_cases hlt : f.urgency < g.urgency
    · have h1 : rest.filter (fun g => decide (g.urgency ≤ f.urgency)) = [] := by
        rw [List.filter_eq_nil_iff]; intro x hx; have := hg x hx; simp; omega
      have h2 : rest.filter (fun g => decide (f.urgency < g.urgency)) = rest := by
        rw [List.filter_eq_self]; intro x hx; have := hg x hx; simp; omega
      simp [hlt, h1, h2]
    · have : g.urgency ≤ f.urgency := by omega
      simp [hlt, this, ih hr]

/-- The frames after an insertion: the old ones and the new one. -/
theorem insertFrame_perm (f : QueuedFrame) (q : List QueuedFrame) : (insertFrame f q).Perm (f :: q) := by
  induction q with
  | nil => exact List.Perm.refl _
  | cons g rest ih =>
    unfold insertFrame
    split
    · exact List.Perm.refl _
    · exact (List.Perm.cons g ih).trans (List.Perm.swap f g rest)

/-- An insertion keeps the order of urgency. -/
theorem insertFrame_sorted (f : QueuedFrame) (q : List QueuedFrame)
    (h : q.Pairwise (fun a b => a.urgency ≤ b.urgency)) :
    (insertFrame f q).Pairwise (fun a b => a.urgency ≤ b.urgency) := by
  induction q with
  | nil => simp [insertFrame]
  | cons g rest ih =>
    obtain ⟨hg, hr⟩ := List.pairwise_cons.mp h
    unfold insertFrame
    split
    · rename_i hlt
      refine List.pairwise_cons.mpr ⟨fun x hx => ?_, h⟩
      rcases List.mem_cons.mp hx with rfl | hx
      · omega
      · have := hg x hx; omega
    · rename_i hlt
      refine List.pairwise_cons.mpr ⟨fun x hx => ?_, ih hr⟩
      rcases List.mem_cons.mp ((insertFrame_perm f rest).mem_iff.mp hx) with rfl | hx
      · omega
      · exact hg x hx

/-- A removal of the last selected frame leaves a sublist. -/
theorem removeLast_sublist (p : QueuedFrame → Bool) (q : List QueuedFrame) : (removeLast p q).Sublist q := by
  unfold removeLast
  have := List.eraseP_sublist (p := p) (l := q.reverse)
  simpa using this.reverse

/-- Changes of the port's own state leave everything else. -/
theorem stopDecoding_frame (timing : CorridorPort → CorridorPort) (u : Bn24) :
    stopDecoding timing u = { u with port := (stopDecoding timing u).port } := rfl

/-- What restarts or moves on the line's timing leaves the port's state, its queue, its attempt and the frame being decoded. -/
def TimingOnly (timing : CorridorPort → CorridorPort) : Prop :=
  ∀ p, (timing p).state = p.state ∧ (timing p).queue = p.queue ∧ (timing p).attempt = p.attempt ∧ (timing p).decoding = p.decoding

theorem edgeObserved_timingOnly : TimingOnly edgeObserved := fun _ => ⟨rfl, rfl, rfl, rfl⟩

theorem frameEnded_timingOnly : TimingOnly frameEnded := fun _ => ⟨rfl, rfl, rfl, rfl⟩

theorem frameBroken_timingOnly : TimingOnly frameBroken := fun p => by
  unfold frameBroken
  split <;> exact ⟨rfl, rfl, rfl, rfl⟩

theorem advanceTimer_timingOnly (report : LineReport) : TimingOnly (advanceTimer report) := fun p => by
  unfold advanceTimer timingBefore
  split <;> exact ⟨rfl, rfl, rfl, rfl⟩

/-- All that the end of decoding does besides the line's timing: no frame is decoded, and RECEIVE returns to IDLE (R125). -/
theorem stopDecoding_port (timing : CorridorPort → CorridorPort) (u : Bn24) (h : TimingOnly timing) :
    (stopDecoding timing u).port.queue = u.port.queue ∧ (stopDecoding timing u).port.attempt = u.port.attempt
      ∧ (stopDecoding timing u).port.decoding = none
      ∧ (stopDecoding timing u).port.state = if u.port.state = .receive then .idle else u.port.state := by
  obtain ⟨hs, hq, ha, -⟩ := h u.port
  refine ⟨hq, ha, rfl, ?_⟩
  simp only [stopDecoding, setPort, hs]
  cases u.port.state <;> rfl

/-! ### Receivers -/

/-- A length byte is outside 1 to 16, or it lies inside. -/
theorem lengthOutside_eq_false (b : Byte) : lengthOutside b = false ↔ 1 ≤ b.toNat ∧ b.toNat ≤ 16 := by
  simp only [lengthOutside, Bool.or_eq_false_iff, decide_eq_false_iff_not, not_lt]

/-- A byte leaves a receiver's framing state sound. -/
theorem nextByte_framingOk {now : Time} {b : Byte} {f g : Framing} (h : FramingOk f) (hn : nextByte now b f = .goesOn g) :
    FramingOk g := by
  cases f with
  | hunting =>
    simp only [nextByte, ByteOutcome.goesOn.injEq] at hn
    subst hn
    split <;> simp [FramingOk, collectingFrom]
  | collecting m =>
    obtain ⟨length, bytes, lastEnd⟩ := m
    simp only [nextByte, takeByte] at hn
    cases length with
    | none =>
      simp only at hn
      split at hn
      · cases hn
      · rename_i hl
        injection hn with hn
        subst hn
        have := (lengthOutside_eq_false b).mp (by simpa using hl)
        simp only [FramingOk] at h
        simp [FramingOk, h, this]
    | some n =>
      simp only at hn
      split at hn
      · rename_i hl
        injection hn with hn
        subst hn
        simp only [FramingOk, List.length_append, List.length_cons, List.length_nil] at h ⊢
        omega
      · cases hn

/-! ### What waits for the handler -/

/-- Outside RUNNING a delivered frame counts if it is refused, and reaches no table (R158). -/
theorem handleFrame_quiet (f : ReceivedFrame) (u : Bn24) (h : isRunning u = false) :
    handleFrame f u = if refusedHere u f then count .forecastDiscarded u else u := by
  have send : ∀ rs, sendTable rs u = u := fun rs => by simp [sendTable, h]
  cases f with
  | withdraw sender k => exact send _
  | passage p =>
    have link : (acceptingLink u p).isNone = (match linkRecord u p.direction with
        | some l => decide (l.upstream ≠ p.sender)
        | none => true) := by
      unfold acceptingLink
      rcases linkRecord u p.direction with _ | l
      · rfl
      · by_cases hs : l.upstream = p.sender <;> simp [hs]
    have ref : refusedHere u (.passage p) = (decide (p.next = u.loader.inForce.station)
        && (badVehicle p.key.vehicle || (acceptingLink u p).isNone)) := by rw [link]; rfl
    rw [ref]
    simp only [handleFrame, handlePassage, passageHere, send]
    cases badVehicle p.key.vehicle <;> by_cases hn : p.next = u.loader.inForce.station <;>
      rcases acceptingLink u p with _ | l <;> simp [hn]

/-- With the port OFF a request of the table reaches no queue (R158). -/
theorem handleRequest_off (r : HandlerRequest) (u : Bn24) (h : u.port.state = .off) : handleRequest r u = u := by
  have offer : ∀ body n, offerFrame body n u = u := fun body n => by simp [offerFrame, h]
  cases r with
  | passage q => simp only [handleRequest, buildPassage]; split <;> simp only [offer]
  | withdraw k => exact offer _ _

/-- What the handler still holds when a load ends in RUNNING: its frames that are refused are counted, and nothing else of it
reaches any block (R158). -/
theorem settleHandler_quiet (u : Bn24) (hr : isRunning u = false) (hp : u.port.state = .off) :
    settleHandler u = countTimes .forecastDiscarded (u.handler.frames.filter (refusedHere u)).length
      { u with handler := { requests := [], frames := [] } } := by
  have requests : ∀ (rs : List HandlerRequest) (v : Bn24), v.port.state = .off →
      rs.foldl (fun v r => handleRequest r v) v = v := by
    intro rs
    induction rs with
    | nil => intros; rfl
    | cons r rest ih => intro v hv; rw [List.foldl_cons, handleRequest_off r v hv]; exact ih v hv
  have frames : ∀ (fs : List ReceivedFrame) (v : Bn24), v.loader = u.loader →
      fs.foldl (fun v f => handleFrame f v) v = countTimes .forecastDiscarded (fs.filter (refusedHere u)).length v := by
    intro fs
    induction fs with
    | nil => intros; rfl
    | cons f rest ih =>
      intro v hv
      have same : refusedHere v f = refusedHere u f := by
        cases f with
        | withdraw => rfl
        | passage p => cases hd : p.direction <;> simp [refusedHere, linkRecord, hv, hd]
      rw [List.foldl_cons, handleFrame_quiet f v (by simp only [isRunning, hv]; exact hr), same]
      cases hf : refusedHere u f with
      | false => simpa [List.filter_cons, hf] using ih v hv
      | true => simpa [List.filter_cons, hf, countTimes] using ih (count .forecastDiscarded v) hv
  unfold settleHandler
  rw [requests _ { u with handler := { requests := [], frames := [] } } hp]
  exact frames _ { u with handler := { requests := [], frames := [] } } rfl

/-- A load that ends in RUNNING with nothing saved leaves every block started (R190). -/
theorem endRunning_eq_startedWith (u v : Bn24) (w : Configuration) (flags : Half) (hr : u.loader.run = .loading)
    (hp : u.port.state = .off) (hs : u.clock.saved = none)
    (hv : v = { u with loader.working := w, maint.flags := u.maint.flags ||| flags }) :
    endRunning v = startedWith w flags u := by
  have hf : refusedHere v = refusedHere u := by
    funext f
    cases f with
    | withdraw => rfl
    | passage p => cases hd : p.direction <;> simp [refusedHere, linkRecord, hd, hv]
  have hc : (countTimes .forecastDiscarded (u.handler.frames.filter (refusedHere u)).length
      { v with handler := { requests := [], frames := [] } }).maint =
        { (countTimes .forecastDiscarded (u.handler.frames.filter (refusedHere u)).length u).maint with
          flags := u.maint.flags ||| flags } := by
    have h : ∀ (n : Nat) (a b : Bn24), a.maint = { b.maint with flags := a.maint.flags } →
        (countTimes .forecastDiscarded n a).maint =
          { (countTimes .forecastDiscarded n b).maint with flags := a.maint.flags } := by
      intro n
      induction n with
      | zero => intro a b h; exact h
      | succ n ih =>
        intro a b h
        refine ih (count .forecastDiscarded a) (count .forecastDiscarded b) ?_
        simp only [count]
        rw [h]
    exact (h _ _ u (by simp [hv])).trans (by simp [hv])
  have hq := settleHandler_quiet v (by simp [isRunning, hv, hr]) (by simp [hv, hp])
  rw [hf, show v.handler = u.handler by rw [hv], countTimes_frame, hc] at hq
  rw [endRunning, hq, hv]
  simp [installConfiguration, startReceivers, startPort, setPort, clockStart, hs, setClock, startedWith, enterAcquiring]

/-- What a frame or a request of the handler never changes: clock, loader, local time, flags, the reset. -/
def keptByHandler (u : Bn24) : TimeUnit × Loader × Time × Half × Bool :=
  (u.clock, u.loader, u.localTime, u.maint.flags, u.resetHeld)

theorem keptByHandler_offerFrame (body : FrameBody) (n : Nat) (u : Bn24) :
    keptByHandler (offerFrame body n u) = keptByHandler u := by
  have place : ∀ f : QueuedFrame, keptByHandler (placeFrame f u) = keptByHandler u := by
    intro f
    unfold placeFrame
    split
    · rfl
    · split
      · rfl
      · split <;> rfl
  unfold offerFrame
  cases u.port.state <;> first | exact place _ | rfl

theorem keptByHandler_handleRequest (r : HandlerRequest) (u : Bn24) : keptByHandler (handleRequest r u) = keptByHandler u := by
  cases r with
  | passage q =>
    simp only [handleRequest, buildPassage]
    split
    · exact keptByHandler_offerFrame _ _ u
    · rfl
  | withdraw k => exact keptByHandler_offerFrame _ _ u

theorem keptByHandler_handleFrame (f : ReceivedFrame) (u : Bn24) : keptByHandler (handleFrame f u) = keptByHandler u := by
  have send : ∀ rs, keptByHandler (sendTable rs u) = keptByHandler u := fun rs => by rw [sendTable_frame]; rfl
  cases f with
  | withdraw _ k => exact send _
  | passage p =>
    simp only [handleFrame, handlePassage, passageHere]
    split
    · split <;> rfl
    · split
      · split <;> first | exact send _ | rfl
      · exact send _

/-- What the handler still holds changes neither clock nor loader nor local time nor flags, whatever the state (R158). -/
theorem keptByHandler_settleHandler (u : Bn24) : keptByHandler (settleHandler u) = keptByHandler u := by
  have requests : ∀ (rs : List HandlerRequest) (v : Bn24),
      keptByHandler (rs.foldl (fun v r => handleRequest r v) v) = keptByHandler v := by
    intro rs
    induction rs with
    | nil => intro v; rfl
    | cons r rest ih => intro v; rw [List.foldl_cons, ih, keptByHandler_handleRequest]
  have frames : ∀ (fs : List ReceivedFrame) (v : Bn24),
      keptByHandler (fs.foldl (fun v f => handleFrame f v) v) = keptByHandler v := by
    intro fs
    induction fs with
    | nil => intro v; rfl
    | cons f rest ih => intro v; rw [List.foldl_cons, ih, keptByHandler_handleFrame]
  unfold settleHandler
  rw [frames, requests]
  rfl

end Sys2Proof.Machine
end

