-- ==== Sys2Proof/Laws/Table.lean ====
section
/-! SUPPORT. Lemmas about the Approach Table's shared operations (taking a message, eviction, removal, reporting) and about the
candidates of a selection. -/

namespace Sys2Proof.Machine

/-! ### Taking a detection message -/

/-- A detection message in its turn is the one taken, and this is what the unit then holds (R6, R115). -/
theorem takesDetection_taken {s : State} {m : DetectionMessage} {rq : List TableRequest} {ib : List DetectionMessage}
    (h : TakesDetection s m rq ib) :
    turnOfInbox s.unit = some m ∧ purgeRecent (takeInbox s.unit) =
      { s.unit with detection.inbox := ib, table.requests := rq, table.recent := liveRecent s.unit } := by
  obtain ⟨⟨_, hr⟩, h1, h2⟩ := h
  constructor
  · simp [turnOfInbox, isRunning, hr, h1, h2]
  · rw [purgeRecent_eq]
    simp [takeInbox, popRequest, h1, h2, liveRecent]

/-- A key is in the recent-departures list when a record holds it. -/
theorem inRecent_iff (u : Bn24) (k : Key) : inRecent u k = true ↔ ∃ d ∈ u.table.recent, d.key = k := by
  simp [inRecent]

/-- A key without a record is not in the recent-departures list. -/
theorem inRecent_eq_false (u : Bn24) (k : Key) (h : ∀ d ∈ u.table.recent, d.key ≠ k) : inRecent u k = false := by
  simpa [inRecent] using h

/-- Adding a key to the live records (R12). -/
theorem withDeparture_eq_recentWith (u v : Bn24) (k : Key) (h : v.table.recent = liveRecent u)
    (hnow : v.localTime = u.localTime) : withDeparture k v.localTime v.table.recent = recentWith u k := by
  unfold withDeparture recentWith
  rw [h, hnow]
  rfl

/-! ### Eviction -/

/-- The victim scan stops at the first slot from the pointer on that passes a test (R8). -/
theorem find_scanOrder_eq_some (start : SlotIx) (p : SlotIx → Bool) (v : SlotIx) :
    (scanOrder start).find? p = some v ↔
      ∃ d : SlotIx, v = start + d ∧ p v = true ∧ ∀ k, k < d → p (start + k) = false := by
  unfold scanOrder
  rw [List.find?_map]
  constructor
  · intro h
    simp only [Option.map_eq_some_iff] at h
    obtain ⟨d, hd, rfl⟩ := h
    obtain ⟨h1, h2⟩ := (find_finRange_eq_some _ d).mp hd
    exact ⟨d, rfl, h1, h2⟩
  · rintro ⟨d, rfl, h1, h2⟩
    have hd : (List.finRange 24).find? (p ∘ (fun k => start + k)) = some d := (find_finRange_eq_some _ d).mpr ⟨h1, h2⟩
    rw [hd]
    rfl

/-- A forecast victim is a FORECAST entry in WAITING (R8). -/
theorem isForecastVictim_iff (u : Bn24) (i : SlotIx) :
    isForecastVictim u i = true ↔ ∃ e, WaitingIn u .forecast i e := by
  unfold isForecastVictim WaitingIn
  cases entryIn u i <;> simp

/-- What the forecast victim scan finds (R8). -/
theorem forecastVictim_eq_some (u : Bn24) (v : SlotIx) : forecastVictim u = some v ↔ ForecastVictim u v := by
  unfold forecastVictim ForecastVictim
  rw [find_scanOrder_eq_some]
  simp only [isForecastVictim_iff, ← Bool.not_eq_true, not_exists]

/-- With no FORECAST entry in WAITING the scan finds none (R8). -/
theorem forecastVictim_eq_none (u : Bn24) (h : ∀ i e, ¬ WaitingIn u .forecast i e) : forecastVictim u = none := by
  unfold forecastVictim
  rw [List.find?_eq_none]
  intro i _ hi
  obtain ⟨e, he⟩ := (isForecastVictim_iff _ _).mp hi
  exact h _ _ he

/-- The CONFIRMED entries in WAITING, with their grades (R10). -/
theorem mem_confirmedWaiting (u : Bn24) (c : SlotIx × Nat) :
    c ∈ confirmedWaiting u ↔ ∃ e, WaitingIn u .confirmed c.1 e ∧ e.grade = c.2 := by
  unfold confirmedWaiting WaitingIn
  rw [List.mem_filterMap]
  obtain ⟨i, g⟩ := c
  constructor
  · rintro ⟨j, _, h⟩
    cases hj : entryIn u j with
    | none => simp [hj] at h
    | some e =>
      simp only [hj] at h
      split at h
      · rename_i h1
        simp only [Option.some.injEq, Prod.mk.injEq] at h
        obtain ⟨rfl, rfl⟩ := h
        exact ⟨e, ⟨hj, h1⟩, rfl⟩
      · simp at h
  · rintro ⟨e, ⟨h1, h2, h3⟩, rfl⟩
    exact ⟨i, List.mem_finRange i, by simp [h1, h2, h3]⟩

/-- They stand in ascending slot order. -/
theorem confirmedWaiting_ascending (u : Bn24) : (confirmedWaiting u).Pairwise (fun a b => a.1 < b.1) := by
  unfold confirmedWaiting
  rw [List.pairwise_filterMap]
  refine (List.pairwise_lt_finRange 24).imp ?_
  intro a b hab x hx y hy
  have h1 : x.1 = a := by
    cases h : entryIn u a <;> simp [h] at hx
    rw [← hx.2]
  have h2 : y.1 = b := by
    cases h : entryIn u b <;> simp [h] at hy
    rw [← hy.2]
  rw [h1, h2]
  exact hab

/-- A choice that no later candidate undercuts stays. -/
theorem foldl_lowerGrade_stays (c : SlotIx × Nat) (l : List (SlotIx × Nat)) (h : ∀ x ∈ l, c.2 ≤ x.2) :
    l.foldl lowerGrade (some c) = some c := by
  induction l with
  | nil => rfl
  | cons x r ih =>
    have hx : lowerGrade (some c) x = some c := by simp [lowerGrade, h x (by simp)]
    rw [List.foldl_cons, hx]
    exact ih (fun y hy => h y (by simp [hy]))

/-- The candidate of the lowest grade, the first of equal grades, is chosen (R10). -/
theorem foldl_lowerGrade_eq_some (l : List (SlotIx × Nat)) (c : SlotIx × Nat)
    (sorted : l.Pairwise (fun a b => a.1 < b.1)) (mem : c ∈ l) (least : ∀ x ∈ l, c.2 ≤ x.2 ∧ (x.1 < c.1 → c.2 < x.2))
    (best : Option (SlotIx × Nat)) (above : ∀ b ∈ best, c.2 < b.2) : l.foldl lowerGrade best = some c := by
  induction l generalizing best with
  | nil => cases mem
  | cons x r ih =>
    obtain ⟨hx, hr⟩ := List.pairwise_cons.mp sorted
    rw [List.foldl_cons]
    rcases List.mem_cons.mp mem with rfl | hcr
    · have hc : lowerGrade best c = some c := by
        cases best with
        | none => rfl
        | some b => simp [lowerGrade, above b rfl]
      rw [hc]
      exact foldl_lowerGrade_stays c r (fun y hy => (least y (by simp [hy])).1)
    · have hlt := (least x (by simp)).2 (hx c hcr)
      refine ih hr hcr (fun y hy => least y (by simp [hy])) _ ?_
      intro b hb
      cases best with
      | none =>
        simp only [lowerGrade, Option.mem_def, Option.some.injEq] at hb
        exact hb ▸ hlt
      | some b0 =>
        simp only [lowerGrade] at hb
        split at hb
        · simp only [Option.mem_def, Option.some.injEq] at hb
          exact hb ▸ hlt
        · simp only [Option.mem_def, Option.some.injEq] at hb
          exact hb ▸ above _ rfl

/-- The CONFIRMED WAITING entry of the lowest grade, the lowest slot of equal grades (R10). -/
theorem lowestConfirmed_eq_some (u : Bn24) (j : SlotIx) (f : Entry) (h : WaitingIn u .confirmed j f)
    (least : ∀ i e, WaitingIn u .confirmed i e → f.grade ≤ e.grade ∧ (i < j → f.grade < e.grade)) :
    lowestConfirmed u = some (j, f.grade) := by
  refine foldl_lowerGrade_eq_some _ _ (confirmedWaiting_ascending u) ((mem_confirmedWaiting u _).mpr ⟨f, h, rfl⟩) ?_ _
    (by simp)
  intro x hx
  obtain ⟨e, he, hg⟩ := (mem_confirmedWaiting u x).mp hx
  exact hg ▸ least _ _ he

/-- With no CONFIRMED entry in WAITING there is none to choose (R10). -/
theorem lowestConfirmed_eq_none (u : Bn24) (h : ∀ i e, ¬ WaitingIn u .confirmed i e) : lowestConfirmed u = none := by
  have hnil : confirmedWaiting u = [] := by
    rw [List.eq_nil_iff_forall_not_mem]
    intro x hx
    obtain ⟨e, he, _⟩ := (mem_confirmedWaiting u x).mp hx
    exact h _ _ he
  rw [lowestConfirmed, hnil]
  rfl

/-! ### Removal and reporting -/

/-- Removing an entry outside a grant empties its slot and abandons an offer of it (R25, R80). -/
theorem removeEntry_outside_grant (u : Bn24) (i : SlotIx) (e : Entry)
    (hs : e.service = .waiting ∨ e.service = .armed ∨ e.service = .offered) :
    removeEntry i e u =
      { u with table.slots := u.table.slots.set i none
               arbiter.slot := if e.service = .offered then abandoned u.arbiter.slot else u.arbiter.slot } := by
  unfold removeEntry notifyRemoval setSlot
  rcases hs with hs | hs | hs
  · simp [hs]
  · simp [hs]
  · simp only [hs, abandonOffer, setGrant, if_true]
    cases h : u.arbiter.slot <;> simp [abandoned, ← h]

/-- A check-out has a target exactly where it is reported onward (R20). -/
theorem passageTarget_isSome_iff (u : Bn24) (a : ApproachIx) : (passageTarget u a).isSome = true ↔ ReportsOnward u a := by
  unfold ReportsOnward passageTarget directionOf
  cases approachRecord u a with
  | none => simp
  | some r =>
    cases hr : r.role <;> simp [hr]
    · cases linkRecord u .outbound <;> simp
    · cases linkRecord u .inbound <;> simp

/-- A PASSAGE is requested exactly there (R20). -/
theorem requestPassage_cases (r : PassageRequest) (u : Bn24) :
    ∃ sent, requestPassage r u = { u with handler.requests := u.handler.requests ++ sent }
      ∧ (ReportsOnward u r.approach → sent = [.passage r]) ∧ (¬ ReportsOnward u r.approach → sent = []) := by
  have htarget := passageTarget_isSome_iff u r.approach
  unfold requestPassage
  cases h : passageTarget u r.approach with
  | none =>
    have hnot : ¬ ReportsOnward u r.approach := fun hr => by simpa [h] using htarget.mpr hr
    exact ⟨[], by simp, fun hr => absurd hr hnot, fun _ => rfl⟩
  | some x =>
    have hyes : ReportsOnward u r.approach := htarget.mp (by simp [h])
    exact ⟨[.passage r], by simp [sendHandler], fun _ => rfl, fun hr => absurd hyes hr⟩

/-! ### Selection -/

/-- What an entry of the table offers as a candidate comes from its own slot. -/
theorem mem_candidates (u : Bn24) (c : Candidate) :
    c ∈ candidates u ↔
      entryIn u c.slot = some c.entry ∧ c.entry.service = .armed ∧ c.entry.decision = some c.decision := by
  unfold candidates
  rw [List.mem_filterMap]
  obtain ⟨i, e, d⟩ := c
  constructor
  · rintro ⟨j, _, h⟩
    cases he : entryIn u j with
    | none => simp [he] at h
    | some f =>
      simp only [he] at h
      cases hs : f.service <;> cases hd : f.decision <;> simp [hs, hd] at h
      obtain ⟨rfl, rfl, rfl⟩ := h
      exact ⟨he, hs, hd⟩
  · rintro ⟨h1, h2, h3⟩
    simp only at h1 h2 h3
    exact ⟨i, List.mem_finRange i, by simp [h1, h2, h3]⟩

/-- The candidates stand in ascending slot order. -/
theorem candidates_ascending (u : Bn24) : (candidates u).Pairwise (fun a b => a.slot < b.slot) := by
  unfold candidates
  rw [List.pairwise_filterMap]
  refine (List.pairwise_lt_finRange 24).imp ?_
  intro a b hab x hx y hy
  have own : ∀ (i : SlotIx) (x : Candidate), (match entryIn u i with
    | some e => match e.service, e.decision with
      | .armed, some d => some ({ slot := i, entry := e, decision := d } : Candidate)
      | _, _ => none
    | none => none) = some x → x.slot = i := by
    intro i x h
    cases he : entryIn u i with
    | none => simp [he] at h
    | some f =>
      simp only [he] at h
      cases hs : f.service <;> cases hd : f.decision <;> simp [hs, hd] at h
      subst h
      rfl
  rw [own a x hx, own b y hy]
  exact hab

/-- A choice that no later candidate goes before stays. -/
theorem foldl_chooseNext_stays (c : Candidate) (l : List Candidate) (h : ∀ x ∈ l, goesBefore x c = false) :
    l.foldl chooseNext (some c) = some c := by
  induction l with
  | nil => rfl
  | cons x r ih =>
    have hx : chooseNext (some c) x = some c := by simp [chooseNext, h x (by simp)]
    rw [List.foldl_cons, hx]
    exact ih (fun y hy => h y (by simp [hy]))

/-- The candidate that goes before every other is chosen (R78). -/
theorem foldl_chooseNext_eq_some (l : List Candidate) (c : Candidate) (sorted : l.Pairwise (fun a b => a.slot < b.slot))
    (mem : c ∈ l)
    (first : ∀ x ∈ l, (x.slot < c.slot → goesBefore c x = true) ∧ (c.slot < x.slot → goesBefore x c = false))
    (best : Option Candidate) (behind : ∀ b ∈ best, goesBefore c b = true) : l.foldl chooseNext best = some c := by
  induction l generalizing best with
  | nil => cases mem
  | cons x r ih =>
    obtain ⟨hx, hr⟩ := List.pairwise_cons.mp sorted
    rw [List.foldl_cons]
    rcases List.mem_cons.mp mem with rfl | hcr
    · have hc : chooseNext best c = some c := by
        cases best with
        | none => rfl
        | some b => simp [chooseNext, behind b rfl]
      rw [hc]
      exact foldl_chooseNext_stays c r (fun y hy => (first y (by simp [hy])).2 (hx y hy))
    · have hbefore := (first x (by simp)).1 (hx c hcr)
      refine ih hr hcr (fun y hy => first y (by simp [hy])) _ ?_
      intro b hb
      cases best with
      | none =>
        simp only [chooseNext, Option.mem_def, Option.some.injEq] at hb
        exact hb ▸ hbefore
      | some b0 =>
        simp only [chooseNext] at hb
        split at hb
        · simp only [Option.mem_def, Option.some.injEq] at hb
          exact hb ▸ hbefore
        · simp only [Option.mem_def, Option.some.injEq] at hb
          exact hb ▸ behind _ rfl

/-! ### The check of a short message -/

/-- The sum of bytes is the sum of their numbers modulo 256. -/
theorem sumBytes_eq (l : List Byte) : sumBytes l = BitVec.ofNat 8 (l.map BitVec.toNat).sum := by
  have from' : ∀ (l : List Byte) (a : Byte), l.foldl (· + ·) a = a + BitVec.ofNat 8 (l.map BitVec.toNat).sum := by
    intro l
    induction l with
    | nil => simp
    | cons x r ih =>
      intro a
      rw [List.foldl_cons, ih]
      simp [BitVec.ofNat_add, BitVec.add_assoc]
  rw [sumBytes, from']
  simp

/-- The check of a short message (R204). -/
theorem sumOk_iff (p : List Byte) (c : Byte) : sumOk p c = true ↔ SumsToZero p c := by
  unfold sumOk SumsToZero
  rw [decide_eq_true_eq, sumBytes_eq, ← BitVec.toNat_inj]
  simp [BitVec.toNat_add]

end Sys2Proof.Machine
end

