-- ==== Sys2Proof/Laws/Grant.lean ====
section
/-! SUPPORT. Lemmas about the grant: what an entry's fit, a standing call and a HOLD are, and all that a member's leaving does. -/

namespace Sys2Proof.Machine

/-! ### The tests of an entry -/

/-- The fit test is the fit as the rules spell it (R68, R92). -/
theorem fitsGrant_iff (u : Bn24) (g : Grant) (holder : Bool) (e : Entry) :
    fitsGrant u g holder e = true ↔ Fits u g (holder = true) e := by
  unfold fitsGrant Fits
  cases hw : e.window with
  | none => simp
  | some w =>
    have hl : ∀ x y : Time, (later x y = false) ↔ timeDiff x y ≤ 0 := fun x y => by simp [later]
    have he : ∀ x y : Time, (earlier x y = true) ↔ timeDiff x y < 0 := fun x y => by simp [earlier]
    cases hk : g.kind <;> cases hn : g.greenStart <;> simp [hl, he, paramsOf, and_assoc]

/-- The first member is the holder (R89). -/
theorem isHolder_iff (g : Grant) (i : SlotIx) : isHolder g i = true ↔ HoldsGrant g i := by
  unfold isHolder HoldsGrant
  cases g.members.head? <;> simp

/-- An updated member is tested as the holder or as a rider (R92). -/
theorem memberFits_iff (u : Bn24) (g : Grant) (i : SlotIx) (e : Entry) (h : u.arbiter.slot = .active g) :
    memberFits u i e = true ↔ Fits u g (HoldsGrant g i) e := by
  have hp : (isHolder g i = true) = HoldsGrant g i := propext (isHolder_iff g i)
  simp only [memberFits, h, fitsGrant_iff, hp]

/-- A declined mark holds exactly at its own class (R61). -/
theorem markHolds_iff (u : Bn24) (e : Entry) (v : PhaseRecord) (h : phaseOf u e.approach = some v) :
    markHolds u e = true ↔ e.declined = some (classOf v.state) := by
  unfold markHolds
  cases hd : e.declined with
  | none => simp
  | some m => simp [h]; exact eq_comm

/-- The HOLD tests are those that the rules list (R61, R62). -/
theorem holdTest_iff (u : Bn24) (e : Entry) (v : PhaseRecord) (h : phaseOf u e.approach = some v) :
    holdTest u e v = true ↔ HeldBack u e v := by
  unfold holdTest HeldBack
  rw [← markHolds_iff u e v h]
  cases approachRecord u e.approach <;> cases hw : e.window <;> simp [isRunning, or_assoc]

/-- The timing rules call, with a kind and an amount, exactly where the manual's do (R63, R64). -/
theorem timingVerdict_call_iff (u : Bn24) (a : ApproachIx) (w : Window) (v : PhaseRecord) (r : ApproachRecord) (kind : CallKind)
    (amount : Nat) (hr : approachRecord u a = some r) (hd : v.state ≠ .dark) :
    let green := u.localTime + ds (agedTime u.localTime v.received v.toChange)
    let next := u.localTime + ds (agedTime u.localTime v.received v.toNextGreen)
    let need := ((timeDiff w.stop green + u.loader.inForce.params.margin).toNat + 9) / 10 * 10
    let advance := ((-timeDiff w.start next).toNat + 9) / 10 * 10
    (∃ p, timingVerdict u a w v = .call { kind := kind, amount := amount, isPartial := p }) ↔
      (kind = .extend ∧ v.state = .green ∧ 0 < timeDiff w.stop green ∧ need ≤ r.eMax ∧ amount = need)
        ∨ (kind = .early ∧ v.state ≠ .green ∧ timeDiff w.start next < 0
            ∧ ((advance ≤ r.tMax ∧ amount = advance) ∨ (r.tMax < advance ∧ 10 ≤ r.tMax ∧ amount = r.tMax))) := by
  intro green next need advance
  have hgreen : greenVerdict u a w v =
      if 0 < timeDiff w.stop green then
        if need ≤ r.eMax then .call { kind := .extend, amount := need, isPartial := false } else .wait
      else .rides := by
    by_cases hg : 0 < timeDiff w.stop green
    · have hn : neededExtension u w.stop green = need := by
        simp only [neededExtension, roundUpTen, ceilDiv, paramsOf, need]
        congr 2
        omega
      have hl : later w.stop (greenEnd u v) = true := decide_eq_true hg
      simp only [greenVerdict, hl, if_true, hg, eMaxOf, hr]
      change (if neededExtension u w.stop green ≤ _ then Verdict.call ⟨_, neededExtension u w.stop green, _⟩ else _) = _
      rw [hn]
    · have hl : later w.stop (greenEnd u v) = false := decide_eq_false hg
      simp [greenVerdict, hl, hg]
  have hred : redVerdict u a w v =
      if timeDiff w.start next < 0 then
        if advance ≤ r.tMax then .call { kind := .early, amount := advance, isPartial := false }
        else if 10 ≤ r.tMax then .call { kind := .early, amount := r.tMax, isPartial := true } else .wait
      else .rides := by
    by_cases hg : timeDiff w.start next < 0
    · have hl : earlier w.start (nextGreen u v) = true := decide_eq_true hg
      simp only [redVerdict, hl, if_true, hg, tMaxOf, hr]
      rfl
    · have hl : earlier w.start (nextGreen u v) = false := decide_eq_false hg
      simp [redVerdict, hl, hg]
  have hwait : ∀ d : Decision, (Verdict.wait = .call d) = False := by simp
  have hrides : ∀ d : Decision, (Verdict.rides = .call d) = False := by simp
  have hearly : (∃ p, redVerdict u a w v = .call { kind := kind, amount := amount, isPartial := p }) ↔
      kind = .early ∧ timeDiff w.start next < 0
        ∧ ((advance ≤ r.tMax ∧ amount = advance) ∨ (r.tMax < advance ∧ 10 ≤ r.tMax ∧ amount = r.tMax)) := by
    rw [hred]
    split_ifs with h1 h2 h3
    · have : ¬ r.tMax < advance := by omega
      simp [h1, h2, this, eq_comm]
    · have : r.tMax < advance := by omega
      simp [h1, h2, h3, this, eq_comm]
    · simp [h1, h2, h3]
    · simp [h1]
  unfold timingVerdict
  cases hs : v.state with
  | green =>
    simp only [hgreen, ne_eq, not_true, false_and, and_false, or_false, true_and]
    split_ifs with h1 h2
    · simp [h1, h2, eq_comm]
    · simp [h1, h2]
    · simp [h1]
  | amber => simpa using hearly
  | red => simpa using hearly
  | dark => exact absurd hs hd

/-- The evaluation gives a call exactly where the rules do (R61 to R64). -/
theorem verdictOf_call_iff (u : Bn24) (e : Entry) (kind : CallKind) (amount : Nat) :
    (∃ p, verdictOf u e = .call { kind := kind, amount := amount, isPartial := p }) ↔ WouldCall u e kind amount := by
  unfold verdictOf WouldCall
  cases hv : phaseOf u e.approach with
  | none => simp
  | some v =>
    cases hw : e.window with
    | none => cases holdTest u e v <;> simp
    | some w =>
      cases hr : approachRecord u e.approach with
      | none =>
        have : holdTest u e v = true := (holdTest_iff u e v hv).mpr (by simp [HeldBack, hr])
        simp [this]
      | some r =>
        by_cases hh : HeldBack u e v
        · have ht : holdTest u e v = true := (holdTest_iff u e v hv).mpr hh
          constructor
          · rintro ⟨p, hp⟩; simp [ht] at hp
          · rintro ⟨v', w', r', hv', _, _, hn, _⟩; cases hv'; exact absurd hh hn
        · have hf : holdTest u e v = false := by
            rw [Bool.eq_false_iff]; exact fun ht => hh ((holdTest_iff u e v hv).mp ht)
          have ht := timingVerdict_call_iff u e.approach w v r kind amount hr (fun hd => hh (by simp [HeldBack, hd]))
          simp only [hf, Bool.false_eq_true, if_false]
          refine ht.trans ⟨fun h => ⟨v, w, r, rfl, rfl, rfl, hh, h⟩, ?_⟩
          rintro ⟨v', w', r', hv', hw', hr', _, h⟩
          cases hv'; cases hw'; cases hr'; exact h

/-- The standing-call test is the one that the rule spells (R81). -/
theorem callStands_iff (u : Bn24) (e : Entry) : callStands u e = true ↔ CallStands u e := by
  unfold callStands CallStands
  cases hs : u.arbiter.slot with
  | free => simp
  | active g => simp
  | offered o =>
    simp only [GrantSlot.offered.injEq, exists_eq_left']
    rw [← verdictOf_call_iff]
    cases hv : verdictOf u e with
    | call d =>
      obtain ⟨k, a, p⟩ := d
      simp
    | hold => simp
    | rides => simp
    | wait => simp

/-! ### A member that leaves -/

/-- Writing what a slot already holds changes nothing. -/
theorem setSlot_self (i : SlotIx) (u : Bn24) : setSlot i (entryIn u i) u = u := by
  have h : u.table.slots.set i (entryIn u i) = u.table.slots := by
    ext j hj
    by_cases hij : i.val = j
    · subst hij; simp [entryIn]
    · simp [Vector.getElem_set_ne, hij]
  unfold setSlot
  rw [h]

/-- The later of two writes of one slot stands. -/
theorem setSlot_setSlot (i : SlotIx) (a b : Option Entry) (u : Bn24) : setSlot i a (setSlot i b u) = setSlot i a u := by
  simp [setSlot]

/-- Writes of two slots commute. -/
theorem setSlot_comm {i j : SlotIx} (h : i ≠ j) (a b : Option Entry) (u : Bn24) :
    setSlot i a (setSlot j b u) = setSlot j b (setSlot i a u) := by
  have h' : j.val ≠ i.val := fun hh => h (Fin.ext hh.symm)
  simp only [setSlot]
  rw [Vector.set_comm _ _ h']

/-- A slot without an ARMED entry takes no part in a selection (R78): it may be written before it or after. -/
theorem selection_setSlot (i : SlotIx) (a : Option Entry) (u : Bn24) (hu : ∀ e ∈ entryIn u i, e.service ≠ .armed)
    (ha : ∀ e ∈ a, e.service ≠ .armed) : selection (setSlot i a u) = setSlot i a (selection u) := by
  have hc : candidates (setSlot i a u) = candidates u := by
    unfold candidates
    refine List.filterMap_congr fun j _ => ?_
    rw [entryIn_setSlot]
    by_cases h : i = j
    · subst h
      have none_of : ∀ o : Option Entry, (∀ e ∈ o, e.service ≠ .armed) →
          (match o with
            | some e => match e.service, e.decision with
              | .armed, some d => some ({ slot := i, entry := e, decision := d } : Candidate)
              | _, _ => none
            | none => none) = none := by
        intro o ho
        cases o with
        | none => rfl
        | some e => cases hs : e.service <;> simp_all
      simp only [if_true]
      exact (none_of a ha).trans (none_of _ hu).symm
    · simp [h]
  have hs : selected (setSlot i a u) = selected u := by unfold selected; rw [hc]
  unfold selection
  rw [hs]
  change (if u.arbiter.slot = .free ∧ isRunning u = true ∧ u.controller.silent = false then _ else _) = _
  split
  · cases hsel : selected u with
    | none => rfl
    | some c =>
      obtain ⟨hin, harmed, _⟩ := selected_spec u c hsel
      have hne : c.slot ≠ i := fun h => hu _ (h ▸ hin) harmed
      have h' : i.val ≠ c.slot.val := fun hh => hne (Fin.ext hh.symm)
      cases hl : u.controller.sending <;>
        simp [issueOffer, handLink, setSlot, count, hl, Vector.set_comm _ _ h']
  · rfl

/-- A selection does not look at the requests that wait for the table. -/
theorem selection_requests (rs : List TableRequest) (u : Bn24) :
    selection { u with table.requests := rs } = { selection u with table.requests := rs } := by
  have hs : selected { u with table.requests := rs } = selected u := rfl
  unfold selection
  rw [hs]
  change (if u.arbiter.slot = .free ∧ isRunning u = true ∧ u.controller.silent = false then _ else _) = _
  split
  · cases selected u with
    | none => rfl
    | some c => cases hl : u.controller.sending <;> simp [issueOffer, handLink, setSlot, count, hl]
  · rfl

/-- A selection leaves the requests that wait for the table. -/
theorem requests_selection (u : Bn24) : (selection u).table.requests = u.table.requests := by
  rcases selection_cases u with h | ⟨c, _, _, _, _, h⟩
  · rw [h]
  · obtain ⟨x, y, hf⟩ := issueOffer_frame c u
    rw [h, hf]

/-- A selection leaves the run state. -/
theorem isRunning_selection (u : Bn24) : isRunning (selection u) = isRunning u := by
  rcases selection_cases u with h | ⟨c, _, _, _, _, h⟩
  · rw [h]
  · obtain ⟨x, y, hf⟩ := issueOffer_frame c u
    rw [h, hf]
    rfl

/-- Requests reach the table before a selection or after it. -/
theorem selection_sendTable (rs : List TableRequest) (u : Bn24) : selection (sendTable rs u) = sendTable rs (selection u) := by
  simp only [sendTable_frame, selection_requests, isRunning_selection, requests_selection]

/-- All that a member's leaving does (R91, R93), its slot holding no ARMED entry as it leaves or after, and requests being
asked of the table at the end. -/
theorem memberLeaves_left (u : Bn24) (g : Grant) (r : EntryRef) (e : Entry) (before after : Option Entry)
    (asked : List TableRequest) (hr : isRunning u = true) (hg : u.arbiter.slot = .active g)
    (he : entryIn u r.slot = some e) (hk : e.key = r.key) (hb : ∀ f ∈ before, f.service ≠ .armed)
    (ha : ∀ f ∈ after, f.service ≠ .armed) :
    MemberLeft u g r after (grantEvaluations g (setSlot r.slot before u)) asked
      (sendTable asked (setSlot r.slot after (memberLeaves r (setSlot r.slot before u)))) := by
  have hwg : (setSlot r.slot before u).arbiter.slot = .active g := hg
  refine ⟨fun hl hh => ?_, fun m f hm hh hf hfk => ?_, fun hl hok => ?_⟩
  · rcases memberLeaves_cases r (setSlot r.slot before u) with ⟨_, h⟩ | ⟨g', h', h⟩
    · exact absurd hwg (h g)
    · obtain rfl : g' = g := by rw [hwg] at h'; cases h'; rfl
      rcases h with ⟨h, _⟩ | ⟨m, rest, hm, h⟩
      · exact absurd h hl
      · rw [h, if_neg hh, hm]
        simp [setGrant, setSlot, sendTable_frame, isRunning] at hr ⊢
        simp [hr]
  · rcases memberLeaves_cases r (setSlot r.slot before u) with ⟨_, h⟩ | ⟨g', h', h⟩
    · exact absurd hwg (h g)
    · obtain rfl : g' = g := by rw [hwg] at h'; cases h'; rfl
      rcases h with ⟨h, _⟩ | ⟨m', rest, hm', h⟩
      · rw [h] at hm; cases hm
      · rw [hm'] at hm ⊢
        obtain rfl : m' = m := by simpa using hm
        have hmem : m' ∈ g'.members.filter (fun m => decide (m ≠ r)) := by rw [hm']; simp
        have hmr : m' ≠ r := by simpa using (List.mem_filter.mp hmem).2
        have hms : r.slot ≠ m'.slot := by
          intro hs
          rw [← hs, he] at hf
          cases hf
          apply hmr
          cases m'; cases r
          simp_all
        have hat : entryAt (setGrant (.active { g' with members := m' :: rest }) (setSlot r.slot before u)) m' = some f := by
          refine (entryAt_eq_some _ _ _).mpr ⟨?_, hfk⟩
          change entryIn (setSlot r.slot before u) m'.slot = some f
          rw [entryIn_setSlot, if_neg hms, hf]
        have h' : m'.slot.val ≠ r.slot.val := fun hh => hms (Fin.ext hh.symm)
        rw [h, if_pos hh, modifyEntry, hat]
        simp only [setGrant, setSlot, sendTable_frame, isRunning, promote] at hr ⊢
        simp [hr, Vector.set_comm _ _ h']
  · have hend : memberLeaves r (setSlot r.slot before u) = endGrant g (setSlot r.slot before u) := by
      rcases memberLeaves_cases r (setSlot r.slot before u) with ⟨_, h⟩ | ⟨g', h', h⟩
      · exact absurd hwg (h g)
      · obtain rfl : g' = g := by rw [hwg] at h'; cases h'; rfl
        rcases h with ⟨_, h⟩ | ⟨m, rest, hm, _⟩
        · exact h
        · rw [hl] at hm; cases hm
    obtain ⟨x, y, hlink⟩ : ∃ x y, ∀ slots,
        freeGrant (handLink (.clear g.id) { u with table.slots := slots })
          = { u with arbiter.slot := .free, arbiter.joins := [], table.slots := slots, controller.sending := x, controller.waiting := y } := by
      cases hs : u.controller.sending with
      | none => exact ⟨some (.clear g.id), u.controller.waiting, fun slots => by simp [freeGrant, handLink, hs]⟩
      | some m => exact ⟨some m, u.controller.waiting ++ [.clear g.id], fun slots => by simp [freeGrant, handLink, hs]⟩
    have hx : linkMessages { u with arbiter.slot := .free, arbiter.joins := [], controller.sending := x, controller.waiting := y }
        = linkMessages u ++ [.clear g.id] := by
      rw [← hlink u.table.slots]
      exact linkMessages_handLink (.clear g.id) u hok.2
    refine ⟨{ u with arbiter.slot := .free, arbiter.joins := [], table.slots := u.table.slots.set r.slot after
                     table.requests := u.table.requests ++ grantEvaluations g (setSlot r.slot before u) ++ asked
                     controller.sending := x, controller.waiting := y }, ?_, hx, rfl, rfl, rfl⟩
    have hno : ∀ f ∈ entryIn (evaluateApproach g.approach (freeGrant (handLink (.clear g.id) (setSlot r.slot before u)))) r.slot,
        f.service ≠ .armed := by
      intro f hf
      have : entryIn (freeGrant (handLink (.clear g.id) (setSlot r.slot before u))) r.slot = before :=
        (congrArg (fun v => entryIn v r.slot) (hlink _)).trans (by simp [entryIn])
      rw [evaluateApproach, entryIn_sendTable, this] at hf
      exact hb f hf
    rw [hend, endGrant, grantEnded, ← selection_setSlot _ _ _ hno ha, ← selection_sendTable]
    congr 1
    have hevals : evaluationsOf (fun f => decide (f.approach = g.approach))
        (freeGrant (handLink (.clear g.id) (setSlot r.slot before u))) = grantEvaluations g (setSlot r.slot before u) :=
      evaluationsOf_congr _ fun i => (congrArg (fun v => entryIn v i) (hlink _)).trans rfl
    have hrun : u.loader.run = .running := by simpa [isRunning] using hr
    rw [evaluateApproach, hevals]
    have hl' := hlink (u.table.slots.set r.slot before)
    change freeGrant (handLink (.clear g.id) (setSlot r.slot before u)) = _ at hl'
    rw [hl']
    simp [sendTable_frame, setSlot, isRunning, hrun]

/-- A leaver's own slot is left as it is. -/
theorem entryIn_memberLeaves (u : Bn24) (r : EntryRef) (hk : ∀ f ∈ entryIn u r.slot, f.key = r.key)
    (ha : ∀ f ∈ entryIn u r.slot, f.service ≠ .armed) : entryIn (memberLeaves r u) r.slot = entryIn u r.slot := by
  rcases memberLeaves_cases r u with ⟨h, _⟩ | ⟨g, _, ⟨_, h⟩ | ⟨m, rest, hm, h⟩⟩
  · rw [h]
  · have hw : ∀ v : Bn24, entryIn v r.slot = entryIn u r.slot → entryIn (selection v) r.slot = entryIn u r.slot := by
      intro v hv
      have hs := selection_setSlot r.slot (entryIn v r.slot) v (by rw [hv]; exact ha) (by rw [hv]; exact ha)
      rw [setSlot_self] at hs
      rw [hs, entryIn_setSlot, if_pos rfl, hv]
    rw [h, endGrant, grantEnded]
    refine hw _ ?_
    rw [evaluateApproach, entryIn_sendTable]
    exact entryIn_handLink _ _ _
  · have hmem : m ∈ g.members.filter (fun m => decide (m ≠ r)) := by rw [hm]; simp
    have hmr : m ≠ r := by simpa using (List.mem_filter.mp hmem).2
    rw [h]
    split
    · rw [entryIn_modifyEntry]
      change (entryIn u r.slot).map _ = _
      cases he : entryIn u r.slot with
      | none => rfl
      | some f =>
        have hf : f.key = r.key := hk f (by simp [he])
        have hne : m ≠ { slot := r.slot, key := f.key } := by rw [hf]; exact hmr
        simp [hne]
    · rfl

/-- The leaving of a member changes neither recent departures nor what waits for the handler, nor local time. -/
theorem memberLeaves_keeps (r : EntryRef) (u : Bn24) :
    (memberLeaves r u).table.recent = u.table.recent ∧ (memberLeaves r u).handler = u.handler
      ∧ (memberLeaves r u).localTime = u.localTime := by
  have sel : ∀ v : Bn24, (selection v).table.recent = v.table.recent ∧ (selection v).handler = v.handler
      ∧ (selection v).localTime = v.localTime := by
    intro v
    rcases selection_cases v with h | ⟨c, _, _, _, _, h⟩
    · rw [h]; exact ⟨rfl, rfl, rfl⟩
    · obtain ⟨x, y, hf⟩ := issueOffer_frame c v
      rw [h, hf]
      exact ⟨rfl, rfl, rfl⟩
  rcases memberLeaves_cases r u with ⟨h, _⟩ | ⟨g, _, ⟨_, h⟩ | ⟨m, rest, _, h⟩⟩
  · rw [h]; exact ⟨rfl, rfl, rfl⟩
  · obtain ⟨h1, h2, h3⟩ := sel (evaluateApproach g.approach (freeGrant (handLink (.clear g.id) u)))
    rw [h, endGrant, grantEnded, h1, h2, h3, evaluateApproach, sendTable_frame, handLink_frame]
    exact ⟨rfl, rfl, rfl⟩
  · rw [h]
    split
    · rw [modifyEntry_frame]; exact ⟨rfl, rfl, rfl⟩
    · exact ⟨rfl, rfl, rfl⟩

/-- The removal of a member (R25, R91, R93). -/
theorem removeEntry_member (u : Bn24) (g : Grant) (i : SlotIx) (e : Entry) (hr : isRunning u = true)
    (hg : u.arbiter.slot = .active g) (he : entryIn u i = some e) (hs : e.service = .granted ∨ e.service = .riding) :
    MemberLeft u g { slot := i, key := e.key } none (grantEvaluations g u) [] (removeEntry i e u) := by
  have h := memberLeaves_left u g { slot := i, key := e.key } e (entryIn u i) none [] hr hg he rfl
    (by rw [he]; rintro f hf; cases hf; rcases hs with h | h <;> simp [h]) (by simp)
  simp only [setSlot_self] at h
  have hn : notifyRemoval i e u = memberLeaves { slot := i, key := e.key } u := by
    unfold notifyRemoval
    rcases hs with h | h <;> simp [h]
  have hno : ∀ v : Bn24, sendTable [] v = v := fun v => by simp [sendTable]
  rw [hno] at h
  rw [removeEntry, hn]
  exact h

/-- The update of a member (R17, R23, R92): it stays, or it leaves, is WAITING and is evaluated. -/
theorem rewriteEntry_member (u : Bn24) (g : Grant) (i : SlotIx) (old new : Entry) (stands : Bool) (hr : isRunning u = true)
    (hg : u.arbiter.slot = .active g) (he : entryIn u i = some old) (hk : new.key = old.key)
    (hs : old.service = .granted ∨ old.service = .riding) :
    (new.approach = old.approach → Fits u g (HoldsGrant g i) new →
      rewriteEntry i old new stands u = setSlot i (some new) u)
    ∧ (new.approach ≠ old.approach ∨ ¬ Fits u g (HoldsGrant g i) new →
        MemberLeft u g { slot := i, key := old.key } (some (toWaiting new))
          (grantEvaluations g (setSlot i (some (toWaiting old)) u)) [.evaluation { slot := i, key := old.key }]
          (rewriteEntry i old new stands u)) := by
  have hrw : rewriteEntry i old new stands u =
      if new.approach ≠ old.approach then
        requestEvaluation i new.key (setSlot i (some (toWaiting new))
          (memberLeaves { slot := i, key := old.key } (setSlot i (some (toWaiting old)) u)))
      else if memberFits u i new then setSlot i (some new) u
      else
        requestEvaluation i new.key
          (memberLeaves { slot := i, key := old.key } (setSlot i (some (toWaiting new)) u)) := by
    unfold rewriteEntry
    rcases hs with h | h <;> simp only [h]
  have hfit := memberFits_iff u g i new hg
  rw [hrw]
  refine ⟨fun ha hf => ?_, fun hn => ?_⟩
  · rw [if_neg (by simpa using ha), if_pos (hfit.mpr hf)]
  · have left := fun before => memberLeaves_left u g { slot := i, key := old.key } old (some (toWaiting before))
      (some (toWaiting new)) [.evaluation { slot := i, key := old.key }] hr hg he rfl (by simp [toWaiting]) (by simp [toWaiting])
    by_cases ha : new.approach = old.approach
    · have hmf : memberFits u i new = false := by
        rw [Bool.eq_false_iff]
        exact fun h => hn.elim (fun h' => h' ha) (fun h' => h' (hfit.mp h))
      rw [if_neg (by simpa using ha), hmf, hk, requestEvaluation]
      have hevals : grantEvaluations g (setSlot i (some (toWaiting new)) u)
          = grantEvaluations g (setSlot i (some (toWaiting old)) u) := by
        unfold grantEvaluations evaluationsOf
        refine List.filterMap_congr fun j _ => ?_
        simp only [entryIn_setSlot]
        by_cases hj : i = j
        · simp [hj, toWaiting, evaluable, ha, hk]
        · simp [hj]
      have hself : setSlot i (some (toWaiting new)) (memberLeaves { slot := i, key := old.key } (setSlot i (some (toWaiting new)) u))
          = memberLeaves { slot := i, key := old.key } (setSlot i (some (toWaiting new)) u) := by
        have hin := entryIn_setSlot i i (some (toWaiting new)) u
        rw [if_pos rfl] at hin
        have hslot := entryIn_memberLeaves (setSlot i (some (toWaiting new)) u) { slot := i, key := old.key }
          (by rw [hin]; rintro f hf; cases hf; exact hk) (by rw [hin]; rintro f hf; cases hf; simp [toWaiting])
        simp only [hin] at hslot
        have hself := setSlot_self i (memberLeaves { slot := i, key := old.key } (setSlot i (some (toWaiting new)) u))
        rwa [hslot] at hself
      have h := left new
      simp only at h
      rw [hevals, hself] at h
      simpa using h
    · rw [if_pos ha, hk]
      exact left old

end Sys2Proof.Machine
end

