-- ==== Sys2Proof/WellFormed.lean ====
section
/-! DEFINITION. Which terms of Instr are commands of the part: the checks that the operand types do not make. -/

namespace Sys2Proof

/-- A payload that a length byte of 1 to 16 can count (R96, R104). -/
def payloadLengthOk (payload : List Byte) : Bool :=
  decide (1 ≤ payload.length) && decide (payload.length ≤ 16)

/-- A whole message has a payload that a length byte can count; the bytes of one that is not whole are any. -/
def messageOk (payload : List Byte) : Option Byte → Bool
  | some _ => payloadLengthOk payload
  | none => true

/-- A length byte that drops its message (R96, R104). -/
def lengthDrops (length : Byte) : Bool :=
  decide (length = 0) || decide (16 < length.toNat)

/-- A line that is recessive now has been so for no more slot times than are reported without a falling edge (R123). -/
def reportOk (report : LineReport) : Bool :=
  match report.level with
  | .dominant => true
  | .recessive n => decide (n ≤ report.slots)

/-- Each command's operands are ones its event can bring. -/
def Instr.wellFormed : Instr → Bool
  | .detMessageReceived payload check => messageOk payload check
  | .controllerMessageReceived payload check => messageOk payload check
  | .detLengthDrop length => lengthDrops length
  | .linkLengthDrop length => lengthDrops length
  -- R205: the last four header bits count the payload bytes.
  | .frameReceived header payload _ => decide (payload.length = (header.extractLsb' 0 4).toNat)
  -- R196: the three known codes are other rows.
  | .commandUnknown code => decide (code ≠ 0x01) && decide (code ≠ 0x02) && decide (code ≠ 0x03)
  | .hardReset => true
  | .resetRelease _ _ => true
  | .loadFault => true
  | .esclHoldTimeout => true
  | .imageMarkRead _ => true
  | .identityBlockRead _ _ _ _ => true
  | .parameterBlockRead _ _ => true
  | .tableMarkRead _ _ => true
  | .tableRecordRead _ _ => true
  | .maintTransferStart _ _ => true
  | .maintTransferEnd => true
  | .internalAddressWrite _ => true
  | .attentionEnablesWrite _ => true
  | .reload _ => true
  | .clearCounters => true
  | .clearFlags _ => true
  | .maintWriteIgnored _ => true
  | .readLatchFirstByte => true
  | .readLatchSecondByte => true
  | .detGapAbandon => true
  | .detCharacterError => true
  | .checkIn => true
  | .checkOut => true
  | .cancel => true
  | .forecastRequest => true
  | .invalidationRequest => true
  | .evaluation => true
  | .silenceRequest => true
  | .entryExpiry _ => true
  | .untimedExpiry _ => true
  | .recentDepartureLapse => true
  | .joinRequest => true
  | .replyWaitExpiry => true
  | .grantDeadline => true
  | .linkGapAbandon => true
  | .linkCharacterError => true
  | .controllerSilence => true
  | .controllerMessageSent => true
  | .quietWaitEnd report => reportOk report
  | .attemptStart report => reportOk report
  | .startMarkDetected => true
  | .frameMalformed => true
  | .arbitrationLoss => true
  | .arbitrationWon => true
  | .lineFault => true
  | .sendComplete => true
  | .passageRequest => true
  | .withdrawRequest => true
  | .passageReceived => true
  | .withdrawReceived => true
  | .beaconReceived => true
  | .beaconTimer => true
  | .acquisitionWaitEnd => true
  | .referenceStale => true
  | .holdoverLimit => true
  | .lowerRecordStale => true
  | .detStartByte => true
  | .linkStartByte => true
  | .pulseNotFrame => true
  | .clearFlagsPending _ => true
  | .enablesFirstByteWrite _ => true

end Sys2Proof
end

