-- ==== Sys2Proof/Tests/Slice0.lean ====
section
/-! SUPPORT. The model's own tests: terms that WellFormed refuses, results that the manual's worked examples give, and, for
every obligation with hypotheses, one theorem that names states and operands meeting them. -/

namespace Sys2Proof.Tests

open Sys2Proof Sys2Proof.Machine

-- One test after another: tests that wait for one another each hold a thread.
set_option Elab.async false

/-! ### A unit to test on: the intersection of the manual's chapters 2 and 3 (station 21, R183) -/

/-- Approach 2 of section 2.3.1 and section 3.5: outbound, near-side stop clear. -/
def outboundApproach : ApproachRecord :=
  { role := .outbound, nearSide := false, enabled := true, eMax := 200, tMax := 150, vMin := 60, vMax := 180, dwell := 150
    spread := 12 }

/-- Approach 1 of section 3.7: a crossing route. -/
def crossApproach : ApproachRecord :=
  { role := .cross, nearSide := false, enabled := true, eMax := 100, tMax := 150, vMin := 20, vMax := 300, dwell := 0
    spread := 12 }

/-- Point 3 of section 2.3.1. -/
def point3 : PointRecord := { approach := 1, kind := .checkIn, stopAhead := true, distance := 350, nominal := 90 }

/-- Point 5 of section 5.5, on approach 2. -/
def point5 : PointRecord := { approach := 1, kind := .checkOut, stopAhead := false, distance := 20, nominal := 0 }

/-- The outbound link of section 2.6. -/
def outboundLink : LinkRecord := { approach := 1, upstream := 20, downstream := 22, linkTime := 950, spread := 10 }

/-- The configuration of station 21. -/
def site : Configuration :=
  { Configuration.fresh with
    station := 21, rate := .r9600, approaches := #v[some crossApproach, some outboundApproach, none, none]
    points := ((Vector.replicate 16 none).set 2 (some point3)).set 4 (some point5), outbound := some outboundLink }

/-- The unit RUNNING at a local time, with an idle line and no bus. -/
def running (t : Nat) : Bn24 :=
  { Bn24.reset with
    resetHeld := false, localTime := ds t
    loader := { run := .running, phase := .none, inForce := site, working := .fresh, siteCode := 0x032A }
    controller := { Bn24.reset.controller with silenceStart := some (ds t) }
    port := { Bn24.reset.port with state := .idle, lineTimer := some 15 }
    clock := { Bn24.reset.clock with lock := .acquiring, acqStart := some (ds t), beaconStart := some (ds t) } }

/-- The unit in LOADING, its read at a place of the image. -/
def loading (p : LoadPhase) : Bn24 :=
  { Bn24.reset with resetHeld := false, loader := { Bn24.reset.loader with phase := p } }

/-- The machine with a unit and no command waiting. -/
def machine (u : Bn24) : State := { pending := [], unit := u }

/-- The unit after a command. -/
def after (c : Instr) (u : Bn24) : Bn24 :=
  match exec c (machine u) with
  | .next t => t.unit
  | .fault _ => u
  | .refused _ => u

/-- The check byte that brings a payload's sum to 0. -/
def sumCheck (payload : List Byte) : Byte := 0 - (BitVec.ofNat 8 payload.length + sumBytes payload)

/-- The key of section 3.5. -/
def bus : Key := { vehicle := 2207, trip := 1 }

/-- The key of section 3.7. -/
def other : Key := { vehicle := 5120, trip := 3 }

/-- The entry of section 3.5. -/
def busEntry : Entry :=
  { key := bus, confirmation := .confirmed, approach := 1, chain := 0, grade := 6
    window := some { start := 10467, stop := 10595 }, quality := none, updated := 10000, service := .waiting
    decision := none, declined := none, served := false }

/-- The entry of section 3.7. -/
def otherEntry : Entry :=
  { key := other, confirmation := .confirmed, approach := 0, chain := 0, grade := 8
    window := some { start := 20020, stop := 20140 }, quality := none, updated := 19600, service := .waiting
    decision := none, declined := none, served := false }

/-- A FORECAST entry of the same bus, without a window. -/
def untimedEntry : Entry :=
  { busEntry with confirmation := .forecast, window := none }

/-- EARLY 100, as section 3.5 decides. -/
def early100 : Decision := { kind := .early, amount := 100, isPartial := false }

/-- The entry ARMED with it. -/
def armedEntry : Entry := { busEntry with service := .armed, decision := some early100 }

/-- The phase view of approach 2 in section 3.5 at 10,300. -/
def redView : PhaseRecord := { state := .red, toChange := 0, toNextGreen := 260, inhibit := false, received := 10300 }

/-- The offer of section 3.5. -/
def offer : Offer :=
  { id := 1, kind := .early, amount := 100, isPartial := false, approach := 1, entry := some { slot := 4, key := bus }
    replyEnd := 10310 }

/-- The grant of section 3.5. -/
def grant : Grant :=
  { id := 1, kind := .early, amount := 100, isPartial := false, approach := 1, members := [{ slot := 4, key := bus }]
    edge := 10460, greenStart := some 10560, deadline := 10645 }

/-- The unit with an entry in a slot. -/
def holding (i : SlotIx) (e : Entry) (u : Bn24) : Bn24 := setSlot i (some e) u

/-- The unit with a phase record of approach 2. -/
def seeing (v : PhaseRecord) (u : Bn24) : Bn24 :=
  { u with controller := { u.controller with phase := u.controller.phase.set 1 (some v) } }

/-- The unit with a grant slot. -/
def slotted (g : GrantSlot) (u : Bn24) : Bn24 := { u with arbiter := { u.arbiter with slot := g } }

/-- The unit with requests that wait for the table. -/
def asked (rs : List TableRequest) (u : Bn24) : Bn24 := { u with table := { u.table with requests := rs } }

/-- The unit with a detection message in its turn. -/
def taking (m : DetectionMessage) (u : Bn24) : Bn24 :=
  asked [.detection] { u with detection := { framing := .hunting, inbox := [m] } }

/-- A CHECK-IN of a key at point 3, as in section 2.3.1. -/
def checkIn3 (k : Key) : DetectionMessage := .checkIn 2 k 1 95 92 false

/-- A CHECK-OUT of a key at point 5. -/
def checkOut5 (k : Key) : DetectionMessage := .checkOut 4 k 1 95

/-- A full table: FORECAST entries but for CONFIRMED ones, in a service state and of a grade, by slot. -/
def full (e : SlotIx → Entry) (u : Bn24) : Bn24 :=
  { u with table := { u.table with slots := Vector.ofFn (fun i => some { e i with key := { vehicle := 100, trip := BitVec.ofNat 8 i.val } }) } }

/-- A maintenance transfer in progress at an internal address. -/
def atAddress (t : Transfer) (a : Byte) (u : Bn24) : Bn24 :=
  { u with maint := { u.maint with transfer := t, address := a } }

/-! ### Ill-formed terms -/

/-- A length byte outside 1 to 16 brings no message: no payload of 0 or of 17 bytes is one. -/
theorem test_wellFormed_refuses_payload_lengths :
    Instr.wellFormed (.detMessageReceived [] (some 0)) = false
      ∧ Instr.wellFormed (.detMessageReceived (List.replicate 17 0) (some 0)) = false
      ∧ Instr.wellFormed (.controllerMessageReceived [] (some 0)) = false
      ∧ Instr.wellFormed (.controllerMessageReceived (List.replicate 17 0) (some 0)) = false
      ∧ Instr.wellFormed (.detMessageReceived (List.replicate 16 0) (some 0)) = true := by decide

/-- The line has not been recessive for longer than its last falling edge lies back. -/
theorem test_wellFormed_refuses_longer_recessive_times :
    Instr.wellFormed (.quietWaitEnd { edge := false, slots := 14, level := .recessive 15 }) = false
      ∧ Instr.wellFormed (.attemptStart { edge := false, slots := 14, level := .recessive 15 }) = false
      ∧ Instr.wellFormed (.attemptStart { edge := false, slots := 15, level := .recessive 15 }) = true
      ∧ Instr.wellFormed (.attemptStart { edge := false, slots := 15, level := .dominant }) = true := by decide

/-- A length of 1 or of 16 drops nothing. -/
theorem test_wellFormed_refuses_good_lengths :
    Instr.wellFormed (.detLengthDrop 1) = false ∧ Instr.wellFormed (.detLengthDrop 16) = false
      ∧ Instr.wellFormed (.linkLengthDrop 1) = false ∧ Instr.wellFormed (.linkLengthDrop 16) = false
      ∧ Instr.wellFormed (.detLengthDrop 17) = true := by decide

/-- The payload of a frame has the length that its header gives. -/
theorem test_wellFormed_refuses_other_frame_lengths :
    Instr.wellFormed (.frameReceived 0x6475 [0, 0, 0, 0] 0) = false
      ∧ Instr.wellFormed (.frameReceived 0x6475 [0, 0, 0, 0, 0] 0) = true := by decide

/-- The three commands that the manual names are not unknown. -/
theorem test_wellFormed_refuses_known_codes :
    Instr.wellFormed (.commandUnknown 1) = false ∧ Instr.wellFormed (.commandUnknown 2) = false
      ∧ Instr.wellFormed (.commandUnknown 3) = false ∧ Instr.wellFormed (.commandUnknown 0) = true := by decide

/-! ### The words of the manual's formats -/

/-- Section 11.2: the CALL and the CLEAR of the worked example of section 4.6. -/
theorem test_call_and_clear_bytes :
    (LinkMessage.call 13 1 .extend 80).bytes = [0xD2, 0x06, 0x51, 0x0D, 0x02, 0x01, 0x00, 0x50, 0x49]
      ∧ (LinkMessage.clear 12).bytes = [0xD2, 0x02, 0x52, 0x0C, 0xA0] := by decide

/-- Section 11.3: a BEACON from station 7 has the header 0x6475, and its fields are read back. -/
theorem test_beacon_header :
    makeHeader 3 1 7 5 = 0x6475 ∧ headerUrgency 0x6475 = 3 ∧ headerKind 0x6475 = 1 ∧ headerSender 0x6475 = 7
      ∧ headerLength 0x6475 = 5 := by decide

/-- R206: the nine bytes 0x31 to 0x39 give 0x29B1. -/
theorem test_frame_check :
    crcBits (([0x31, 0x32, 0x33, 0x34, 0x35, 0x36, 0x37, 0x38, 0x39] : List Byte).flatMap (bitsOf 8)) = 0x29B1 := by
  decide +kernel

/-- Section 11.5: slot 12 of section 3.7 ARMED partial, OFFERED partial and WAITING, and the FORECAST entry of grade 4. -/
theorem test_combined_bytes :
    let partial150 : Option Decision := some { kind := .early, amount := 150, isPartial := true }
    combinedByte { otherEntry with service := .armed, decision := partial150 } = 0xA8
      ∧ combinedByte { otherEntry with service := .offered, decision := partial150 } = 0xC8
      ∧ combinedByte otherEntry = 0x88
      ∧ combinedByte { busEntry with confirmation := .forecast, quality := some .good, grade := 4 } = 0x04 := by decide

/-- No word spells a command. -/
theorem test_no_word_is_a_command : decodeTableWord 8 1 = none := by decide

/-! ### Forecasts and grades -/

/-- Section 2.3.1: the window of the local forecast, with and without the skip-stop flag, and the grade. -/
theorem test_local_forecast :
    localWindow (running 10000) point3 92 false = { start := 10467, stop := 10595 }
      ∧ localWindow (running 10000) point3 92 true = { start := 10335, stop := 10427 }
      ∧ gradeOf (running 10000) 1 95 0 = 6 := by decide +kernel

/-- Section 2.7.1: grades at the defaults. -/
theorem test_grades :
    gradeOf (running 0) 0 (-75) 0 = 0 ∧ gradeOf (running 0) 0 (-60) 0 = 2 ∧ gradeOf (running 0) 1 0 0 = 3
      ∧ gradeOf (running 0) 2 299 0 = 13 ∧ gradeOf (running 0) 2 600 0 = 14 ∧ gradeOf (running 0) 3 20 0 = 0 := by
  decide +kernel

/-- Section 2.7.1: damping, with the chain limit 3 and with the chain limit 2. -/
theorem test_damped_grades :
    let limited := fun c : Nat =>
      { running 0 with loader := { (running 0).loader with inForce := { site with params := { site.params with chainLimit := c } } } }
    gradeOf (limited 3) 2 40 2 = 5 ∧ gradeOf (limited 3) 2 40 3 = 1 ∧ gradeOf (limited 2) 3 45 5 = 1 := by decide +kernel

/-- The unit of section 2.6: COARSE, offset 16,700,000, station 20 heard as FINE, approach 2 with a near-side stop. -/
def coarse : Bn24 :=
  let near : ApproachRecord := { outboundApproach with nearSide := true, dwell := 200 }
  { running 200000 with
    loader := { (running 0).loader with inForce := { site with approaches := site.approaches.set 1 (some near) } }
    clock := { (running 0).clock with
      lock := .coarse, offset := 16700000, reference := 20, acqStart := none
      peers := [{ station := 20, last := ds 199990, lock := .fine }] } }

/-- The frame of section 2.6. -/
def frame26 : ReceivedPassage :=
  { sender := 20, key := bus, routeClass := 2, direction := .outbound, timed := true, chain := 2, lateness := 40
    departure := 122664, next := 21 }

/-- Section 2.6: the passage forecast, and the same frame once it is stale. -/
theorem test_passage_forecast :
    passageForecast coarse frame26 outboundLink = .timed { start := 200895, stop := 201165 } .fair 5
      ∧ passageForecast { coarse with localTime := 201180 } frame26 outboundLink = .stale
      ∧ passageForecast coarse { frame26 with timed := false } outboundLink = .untimed 5 := by decide +kernel

/-! ### Commands -/

/-- Section 9.6: record 1 as it is held after clamping. -/
theorem test_approach_record_clamped :
    (after (.tableRecordRead 1 #v[2, 0x81, 1, 75, 15, 0, 200, 0, 150, 15, 12]) (loading (.records 6 26))).loader.working.approaches[1]
      = some { role := .outbound, nearSide := true, enabled := true, eMax := 600, tMax := 150, vMin := 200, vMax := 200
               dwell := 150, spread := 12 } := by decide +kernel

/-- Section 9.6: record 2 names point 20 and is skipped with TABLE_FORMAT flagged. -/
theorem test_point_record_skipped :
    let u := after (.tableRecordRead 2 #v[20, 2, 0x81, 1, 94, 45, 0, 0, 0, 0, 0]) (loading (.records 5 38))
    flagSet .tableFormat u = true ∧ u.loader.phase = .records 4 45 := by decide +kernel

/-- Section 5.5, message B: lateness and speed are clamped as it enters the inbox. -/
theorem test_detection_message_clamped :
    let payload : List Byte := [0x31, 3, 0x0C, 0xEE, 0, 0, 0xFD, 0x44, 0x01, 0xA4, 0]
    (after (.detMessageReceived payload (sumCheck payload)) (running 80001)).detection.inbox
      = [.checkIn 2 { vehicle := 3310, trip := 0 } 0 (-600) 180 false] := by decide +kernel

/-- Section 5.5, message C: point 7 has no record. -/
theorem test_unknown_point :
    let payload : List Byte := [0x32, 7, 0, 92, 0, 0, 0, 0]
    let u := after (.detMessageReceived payload (sumCheck payload)) (running 80001)
    counterOf .detUnknownPoint u = 1 ∧ counterOf .detBad u = 0 ∧ u.detection.inbox = [] := by decide +kernel

/-- Section 5.5, message B byte by byte, behind a byte that is discarded while hunting: it is taken as the whole message is. -/
theorem test_detection_bytes :
    let payload : List Byte := [0x31, 3, 0x0C, 0xEE, 0, 0, 0xFD, 0x44, 0x01, 0xA4, 0]
    let line : List Byte := [0x00, 0xD2, 11] ++ payload ++ [sumCheck payload]
    after (.detMessageReceived line none) (running 80001)
      = after (.detMessageReceived payload (sumCheck payload)) (running 80001) := by decide +kernel

/-- R104, R105: what a receiver holds after each of the bytes 0xD2, 5 and 0xD2. -/
theorem test_collected_bytes :
    (after (.detMessageReceived [0xD2, 5] none) (running 80001)).detection.framing
        = .collecting { length := some 5, bytes := [], lastEnd := 80001 }
      ∧ (after .detStartByte (after (.detMessageReceived [0xD2, 5] none) (running 80001))).detection.framing
        = .collecting { length := some 5, bytes := [0xD2], lastEnd := 80001 } := by decide +kernel

/-- R106: a byte after a gap, here 2 ds, abandons the message, which is counted once, and begins a new one if it is 0xD2. -/
theorem test_byte_after_a_gap :
    let u := after (.detMessageReceived [0xD2, 5, 7] none) (running 100)
    let v := after .detStartByte { u with localTime := 102 }
    counterOf .detBad v = 1 ∧ v.detection.framing = .collecting { length := none, bytes := [], lastEnd := 102 } := by
  decide +kernel

/-- R202: the start byte 0xD2 on the controller link: a start bit, 0 1 0 0 1 0 1 1, a stop bit. -/
theorem test_serial_bits :
    serialBits 0xD2 = [false, false, true, false, false, true, false, true, true, true]
      ∧ serialByte [false, true, false, false, true, false, true, true] = 0xD2 := by decide

/-- Section 5.6: the gap of a stalled message counts once and the receiver hunts. -/
theorem test_gap_abandons :
    let u := after .detGapAbandon (after .detStartByte (running 80000))
    counterOf .detBad u = 1 ∧ u.detection.framing = .hunting := by decide +kernel

/-- Section 2.3.1: the CHECK-IN makes the entry of the worked example. -/
theorem test_check_in_entry :
    entryIn (after .checkIn (taking (checkIn3 bus) (running 10000))) 0 = some busEntry := by decide +kernel

/-- Section 3.5 at 10,300: the evaluation arms EARLY 100, and the selection offers it. -/
theorem test_evaluation_arms_and_offers :
    let u := after .evaluation (asked [.evaluation { slot := 4, key := bus }]
      (holding 4 busEntry (seeing redView (running 10300))))
    (entryIn u 4).map Entry.service = some .offered ∧ (entryIn u 4).bind Entry.decision = some early100
      ∧ u.arbiter.slot = .offered offer ∧ u.controller.sending = some (.call 1 1 .early 100) := by decide +kernel

/-- Section 3.5 at 10,305: the ACCEPT makes the grant of the worked example. -/
theorem test_accept_makes_grant :
    let u := after (.controllerMessageReceived [0x42, 1] (sumCheck [0x42, 1]))
      (slotted (.offered offer) (holding 4 { armedEntry with service := .offered } (seeing redView (running 10305))))
    u.arbiter.slot = .active grant ∧ (entryIn u 4).map Entry.service = some .granted
      ∧ (entryIn u 4).map Entry.served = some true := by decide +kernel

/-- Section 3.7 at 19,706: the DECLINE leaves the mark not-GREEN. -/
theorem test_decline_marks :
    let declined : Offer := { offer with approach := 0, entry := some { slot := 12, key := other } }
    let view : PhaseRecord := { redView with toNextGreen := 500, received := 19700 }
    let base := running 19706
    let u := after (.controllerMessageReceived [0x43, 1] (sumCheck [0x43, 1]))
      (slotted (.offered declined) (holding 12 { otherEntry with service := .offered, decision := some early100 }
        { base with controller := { base.controller with phase := base.controller.phase.set 0 (some view) } }))
    (entryIn u 12).bind Entry.declined = some .notGreen ∧ u.arbiter.slot = .free
      ∧ counterOf .callsDeclined u = 1 := by decide +kernel

/-- Section 8.7: station 9 of its worked example, in a lock state with an offset. -/
def station9 (t : Nat) (lock : LockState) (reference fine miss : Nat) (offset : Time) : Bn24 :=
  { running t with
    loader := { (running 0).loader with
      inForce := { site with station := 9, params := { site.params with lockEventMode := 3 } } }
    clock := { (running 0).clock with
      lock := lock, reference := reference, fine := fine, miss := miss, offset := offset, acqStart := none
      peers := if reference = 0 then [] else [{ station := 4, last := ds (t - 20), lock := .free }] } }

/-- A beacon of station 4, FREE, that waits for the Corridor Time Unit of a unit at its start mark. -/
def heard (time : Time) (u : Bn24) : Bn24 :=
  { u with clock := { u.clock with
    beacons := [{ station := 4, time := time, lock := 5, reference := 0, startMark := u.localTime }] } }

/-- Section 8.7 at local 55: the step onto the first lower station. -/
theorem test_first_lower_beacon :
    let u := after .beaconReceived (heard 2000317 (station9 55 .acquiring 0 0 0 0))
    u.clock.lock = .coarse ∧ u.clock.offset = 2000262 ∧ u.clock.reference = 4
      ∧ counterOf .referenceChanges u = 1 ∧ counterOf .timeSteps u = 1 := by decide +kernel

/-- Section 8.7 at local 135: the third beacon in a row within the fine window enters FINE. -/
theorem test_third_fine_beacon :
    let u := after .beaconReceived (heard 2000406 (station9 135 .coarse 4 2 0 2000270))
    u.clock.lock = .fine ∧ u.clock.offset = 2000271 ∧ u.clock.miss = 0 ∧ flagSet .lockEvent u = true := by decide +kernel

/-- Section 8.7 at local 155: an error of +4 is slewed by 1 and counts a miss. -/
theorem test_fine_slew :
    let u := after .beaconReceived (heard 2000430 (station9 155 .fine 4 3 0 2000271))
    u.clock.lock = .fine ∧ u.clock.offset = 2000272 ∧ u.clock.miss = 1 := by decide +kernel

/-- Section 8.7 at local 246: the reference has been silent for 71 ds. -/
theorem test_reference_stale :
    let base := station9 246 .fine 4 3 0 2000271
    let u := after .referenceStale { base with clock := { base.clock with peers := [{ station := 4, last := 175, lock := .free }] } }
    u.clock.lock = .holdover ∧ u.clock.reference = 4 ∧ flagSet .holdover u = true := by decide +kernel

/-- R194: a start with another address opens a transfer whose bytes do nothing. -/
theorem test_foreign_transfer :
    let u := after (.maintTransferStart 0x3B .write) (running 0)
    after (.internalAddressWrite 0x0E) u = u ∧ after .clearCounters u = u ∧ after .readLatchFirstByte u = u := by
  decide +kernel

/-- R194: with MADR1 and MADR0 both high the port acknowledges 0x3B and each byte of its transfer, ignored or not; it acknowledges
neither 0x38 nor the general call, and nothing while RSTN is low. -/
theorem test_port_acknowledges :
    let u := { running 0 with maint := { (running 0).maint with madr := 3 } }
    let own := after (.maintTransferStart 0x3B .write) u
    portAnswer u (.maintTransferStart 0x3B .read) = some .acknowledge
      ∧ portAnswer own (.internalAddressWrite 0x12) = some .acknowledge
      ∧ portAnswer (after (.internalAddressWrite 0x12) own) (.maintWriteIgnored 0) = some .acknowledge
      ∧ portAnswer u (.maintTransferStart 0x38 .write) = some .noAcknowledge
      ∧ portAnswer u (.maintTransferStart 0 .write) = some .noAcknowledge
      ∧ portAnswer (after (.maintTransferStart 0 .write) u) (.reload 0) = some .noAcknowledge
      ∧ portAnswer Bn24.reset (.maintTransferStart 0x38 .write) = some .noAcknowledge := by decide +kernel

/-- R208: bits 10 to 15 of the attention enables read 0. -/
theorem test_enables_read :
    let u := atAddress .reading 0x0C (running 0)
    (after .readLatchFirstByte { u with maint := { u.maint with enables := 0xFFFF } }).maint.readData = some 0x03 := by
  decide +kernel

/-- R123: after a malformed frame the line is free 15 slot times from its last falling edge, but never while it is dominant. -/
theorem test_line_free_after_malformed :
    let u := after .frameMalformed (after .startMarkDetected { running 100 with port := { (running 100).port with queue :=
      [{ body := .withdraw bus, urgency := 1, entryTime := 100, sender := 21, underAttempt := false }] } })
    let at' := fun slots level => (after (.attemptStart { edge := false, slots := slots, level := level }) u).port.state
    at' 15 (.recessive 13) = .contend ∧ at' 14 (.recessive 12) = .idle ∧ at' 15 .dominant = .idle := by decide +kernel

/-- R123 and R131: after an attempt whose drive never reached the line, the count goes on from the edge before it and the line is
free at once; after one that brought an edge it is free 15 slot times from that edge. -/
theorem test_line_free_after_a_fault :
    let report : Bool → Nat → Instr := fun edge n => .attemptStart { edge := edge, slots := n, level := .recessive n }
    let u := after .frameMalformed (after .lineFault (after (report false 0)
      { running 100 with port := { (running 100).port with queue :=
        [{ body := .withdraw bus, urgency := 1, entryTime := 100, sender := 21, underAttempt := false }] } }))
    let stateAfter := fun c => (after c u).port.state
    u.port.state = .idle ∧ stateAfter (report false 0) = .contend ∧ stateAfter (report true 14) = .idle
      ∧ stateAfter (report true 15) = .contend := by decide +kernel

/-- R184: the four bytes that address the memory; a missed acknowledge after byte 0 cannot occur; the last byte wanted is not
acknowledged; no byte beyond 2047 is read. -/
theorem test_memory_line :
    openingSignals 2 = [.pulse, .pulse, .start, .send 0xA0, .send 0x00, .send 0x00, .start, .send 0xA1]
      ∧ openingSignals 10 = List.replicate 9 .pulse ++ [.stop]
      ∧ (after .loadFault (loading .identity)).loader.run = .loading
      ∧ (after .esclHoldTimeout (loading .identity)).loader.run = .unconfigured
      ∧ readAnswers (bytesRead .addressing (.imageMarkRead 0)) (after (.imageMarkRead 0) (loading .addressing)).loader.phase =
          [.noAcknowledge, .stop]
      ∧ readAnswers (bytesRead .tableMark (.tableMarkRead 0x6C 3)) (.records 3 26) = [.acknowledge, .acknowledge]
      ∧ bytesRead (.records 1 2045) (.tableRecordRead 4 (Vector.replicate 11 0)) = 3 := by decide +kernel

/-- R158: a WITHDRAW delivered before a RELOAD reaches no table, though the load ends in RUNNING before its turn. -/
theorem test_handler_item_across_a_load :
    let u := after (.reload 0) { running 100 with handler := { requests := [], frames := [.withdraw 20 bus] } }
    let v := after (.tableMarkRead 0 0) { u with loader := { u.loader with phase := .tableMark, working := site } }
    v.loader.run = .running ∧ v.handler.frames = [] ∧ v.table.requests = [] := by decide +kernel

/-- The unit after a step on a queue. -/
def stepped (queue : List Instr) (u : Bn24) : State :=
  match step { pending := queue, unit := u } with
  | .next t => t
  | .fault _ => machine u
  | .refused _ => machine u

/-- An empty queue lets local time pass when nothing is due, and runs the unit's own command when one is (assumption 2). -/
theorem test_idle_steps :
    (stepped [] (running 100)).unit.localTime = 101
      ∧ (stepped [] (taking (checkIn3 bus) (running 10000))).unit.detection.inbox = [] := by decide +kernel

/-- R96, R106: a line that stays idle after an incomplete message loses it without another byte, on either line. -/
theorem test_idle_line_abandons :
    let u := after .linkStartByte (after .detStartByte (running 100))
    let t := (stepped [] (stepped [] (stepped [] u).unit).unit).unit
    t.localTime = 101 ∧ counterOf .detBad t = 1 ∧ counterOf .linkBad t = 1 ∧ t.detection.framing = .hunting
      ∧ t.controller.framing = .hunting := by decide +kernel

/-- R69, R71: a join request that waits as its grant ends is dropped, and a grant that begins afterwards, which its entry fits, does
not take it up. -/
theorem test_join_request_ends_with_its_grant :
    let u := slotted (.active grant) (holding 9 { busEntry with key := other } (holding 4 { armedEntry with service := .granted } (running 10646)))
    let ended := after .grantDeadline { u with arbiter := { u.arbiter with joins := [{ slot := 9, key := other }] } }
    let later := after .joinRequest (slotted (.active grant) ended)
    fitsGrant ended grant false { busEntry with key := other } = true ∧ ended.arbiter.joins = []
      ∧ (entryIn later 9).map Entry.service = some .waiting := by decide +kernel

/-- The command at the front of the queue runs, and the rest waits. -/
theorem test_queue_is_first_in_first_out :
    (stepped [.detStartByte, .detGapAbandon] (running 100)).pending = [.detGapAbandon]
      ∧ (stepped [.detStartByte, .detGapAbandon] (running 100)).unit.detection.framing ≠ .hunting := by decide +kernel

/-! ### Witnesses: for each obligation with hypotheses, what meets them, clause by clause and at the bounds -/

/-- A hard reset in force, a unit with a command of its own, and one with none due. -/
theorem witness_StepRunsFrontCommand :
    Bn24.reset.resetHeld = true ∧ ownCommand (taking (checkIn3 bus) (running 10000)) = some .checkIn
      ∧ (let u := running 100
         u.resetHeld = false ∧ u.table.requests = [] ∧ u.handler.requests = [] ∧ u.handler.frames = [] ∧ u.clock.beacons = []
          ∧ u.arbiter.joins = [] ∧ timerCommand u = none) := by decide +kernel

/-- The reset state with 9 and 10 pulses, a released unit, a load in its address phase and past it, and a unit out of LOADING; each
place of the read, a record at byte 2047 and at byte 26 among them. -/
theorem witness_LoadsBeginAndFail :
    (machine Bn24.reset).unit = Bn24.reset ∧ 9 ≤ 9 ∧ 9 < 10 ∧ (machine (running 0)).unit.resetHeld = false
      ∧ (let s := machine (loading .addressing)
         Active s ∧ s.unit.loader.run = .loading ∧ s.unit.loader.phase = .addressing)
      ∧ (let s := machine (loading .identity)
         Active s ∧ s.unit.loader.run = .loading ∧ s.unit.loader.phase ≠ .none ∧ s.unit.loader.phase ≠ .addressing)
      ∧ Active (machine (running 0)) ∧ (machine (running 0)).unit.loader.run ≠ .loading
      ∧ (∀ p ∈ [LoadPhase.addressing, .identity, .parameters, .tableMark, .records (0 + 1) 2047],
          Active (machine (loading p)) ∧ (machine (loading p)).unit.loader.phase = p)
      ∧ (1 = min (2048 - 2047) 12 ∧ 12 = min (2048 - 26) 12)
      ∧ (∃ t : State, exec (.imageMarkRead 0x6C) (machine (loading .addressing)) = .next t) := by
  refine ⟨by decide +kernel, by decide, by decide, by decide +kernel, by decide +kernel, by decide +kernel, by decide +kernel,
    by decide +kernel, by decide +kernel, by decide, ⟨_, rfl⟩⟩

/-- The two read positions; both clauses split on every byte. -/
theorem witness_FirstFiveBytesDecide :
    (Active (machine (loading .addressing)) ∧ (machine (loading .addressing)).unit.loader.phase = .addressing)
      ∧ Active (machine (loading .identity)) ∧ (machine (loading .identity)).unit.loader.phase = .identity := by
  decide +kernel

/-- The two read positions, with a count of 1, a wrong mark, and a count of 0, nothing being saved; the handler empty. -/
theorem witness_ParametersThenTheTableMark :
    (Active (machine (loading .parameters)) ∧ (machine (loading .parameters)).unit.loader.phase = .parameters)
      ∧ (let s := machine (loading .tableMark)
         Active s ∧ s.unit.loader.phase = .tableMark ∧ s.unit.clock.saved = none ∧ s.unit.loader.run = .loading
          ∧ s.unit.port.state = .off ∧ s.unit.handler.frames = [])
      ∧ ((0x6C : Byte) = 0x6C ∧ (1 : Byte) ≠ 0) ∧ ((0 : Byte) ≠ 0x6C) ∧ (0 : Byte) = 0 := by decide +kernel

/-- A load that resumes a saved state: at local time 1,000, a peer heard at a time, the working copy of this station. -/
def resuming (v : SavedLock) (last : Time) : Bn24 :=
  { loading .tableMark with
    localTime := 1000
    loader := { (loading .tableMark).loader with working := { Configuration.fresh with station := 21 } }
    clock := { Bn24.reset.clock with
      peers := [{ station := 20, last := last, lock := .fine }], saved := some v, noted := some (21, .r19200) } }

/-- A saved state. -/
def savedAs (lock : LockState) (reference : Nat) (holdStart : Option Time) : SavedLock :=
  { lock := lock, reference := reference, fine := 3, miss := 1, holdStart := holdStart }

/-- The same with one record of an unknown type to read, so that TABLE_RECORD_READ ends the load. -/
def resumingAtRecord (v : SavedLock) (last : Time) : Bn24 :=
  let u := resuming v last
  { u with loader := { u.loader with phase := .records 1 26 } }

/-- A command that ends the load of a unit: the premises that every clause of the resumption shares. -/
abbrev EndsTheLoad (v : SavedLock) (u : Bn24) (c : Instr) : Prop :=
  Active (machine u) ∧ u.loader.run = .loading ∧ (after c u).loader.run = .running
    ∧ (after c u).loader.inForce.station = 21 ∧ (after c u).loader.inForce.rate = .r19200 ∧ u.clock.saved = some v
    ∧ u.clock.noted = some (21, .r19200) ∧ PeersOk u

/-- Either command ends a load with a saved FINE. -/
theorem witness_RunningResumesTheSavedLock :
    EndsTheLoad (savedAs .fine 20 none) (resuming (savedAs .fine 20 none) 930) (.tableMarkRead 0 1)
      ∧ EndsTheLoad (savedAs .fine 20 none) (resumingAtRecord (savedAs .fine 20 none) 929)
          (.tableRecordRead 0 (Vector.replicate 11 0)) := by
  decide +kernel

/-- The same for the other saved states. -/
theorem witness_RunningResumesTheSavedLock_states :
    EndsTheLoad (savedAs .acquiring 0 none) (resuming (savedAs .acquiring 0 none) 930) (.tableMarkRead 0 1)
      ∧ EndsTheLoad (savedAs .holdover 20 (some 399)) (resuming (savedAs .holdover 20 (some 399)) 930) (.tableMarkRead 0 1)
      ∧ EndsTheLoad (savedAs .free 0 none) (resuming (savedAs .free 0 none) 930) (.tableMarkRead 0 1) := by
  decide +kernel

/-- What divides the clauses: another station; a peer of 70 ds, the timeout, and of 71; a holdover of 600 ds, the limit, and of
601, the latter with and without a live lower record. -/
theorem witness_RunningResumesTheSavedLock_clauses :
    ((20, LineRate.r19200) : Nat × LineRate) ≠ (21, .r19200)
      ∧ (∀ p ∈ (resuming (savedAs .fine 20 none) 930).clock.peers, p.station = 20 ∧ p.station < 21 ∧ age 1000 p.last ≤ 70)
      ∧ (∀ p ∈ (resuming (savedAs .fine 20 none) 929).clock.peers, p.station = 20 ∧ p.station < 21 ∧ ¬ age 1000 p.last ≤ 70)
      ∧ (resuming (savedAs .fine 20 none) 929).clock.peers ≠ []
      ∧ Configuration.fresh.params.referenceTimeout = 70 ∧ Configuration.fresh.params.holdoverLimit = 600
      ∧ (savedAs .holdover 20 (some 399)).holdStart = some 399 ∧ age 1000 400 ≤ 600 ∧ 600 < age 1000 399 := by
  decide +kernel

/-- The places of a counted record of each length: one that ends at byte 2046 or 2047 with a record behind it, and the last
counted one that ends at 2047; and the records themselves with the last ids, codes and stations. -/
theorem witness_RecordsAreTakenClamped :
    (∀ left ∈ [0, 1], ∀ pos ∈ [2035, 2036, 2040, 2041, 2043],
        Active (machine (loading (.records (left + 1) pos)))
          ∧ (machine (loading (.records (left + 1) pos))).unit.loader.phase = .records (left + 1) pos
          ∧ (loading (.records (left + 1) pos)).clock.saved = none ∧ (loading (.records (left + 1) pos)).loader.run = .loading
          ∧ (loading (.records (left + 1) pos)).port.state = .off)
      ∧ (2035 + 11 < 2047 ∧ 2036 + 11 = 2047 ∧ 2041 + 6 = 2047 ∧ 2040 + 7 = 2047 ∧ 2043 + 4 = 2047)
      ∧ (let b : Vector Byte 11 := #v[4, 0x82, 0, 0, 0, 0, 0, 0, 0, 0, 0]
         b[0].toNat = (3 : ApproachIx).val + 1 ∧ b[1] &&& 0x7F = 2)
      ∧ (let b : Vector Byte 11 := #v[16, 4, 0x82, 0, 0, 0, 0, 0, 0, 0, 0]
         b[0].toNat = (15 : PointIx).val + 1 ∧ b[1].toNat = (3 : ApproachIx).val + 1 ∧ b[2] &&& 0x7F = 2)
      ∧ (let b : Vector Byte 11 := #v[2, 4, 60, 60, 0, 0, 0, 0, 0, 0, 0]
         b[1].toNat = (3 : ApproachIx).val + 1 ∧ b[2].toNat ≤ 60 ∧ b[3].toNat ≤ 60 ∧ b[0] = 2) := by decide +kernel

/-- Naming fields just outside their sets, unknown types next to the known ones, and records that end at byte 2048. -/
theorem witness_RecordsAreSkippedAndTheTableEnds :
    Active (machine (loading (.records 2 26))) ∧ (machine (loading (.records 2 26))).unit.loader.phase = .records (1 + 1) 26
      ∧ (loading (.records 2 26)).clock.saved = none ∧ (loading (.records 2 26)).loader.run = .loading
      ∧ (loading (.records 2 26)).port.state = .off
      ∧ (let b : Vector Byte 11 := #v[5, 0x83, 0, 0, 0, 0, 0, 0, 0, 0, 0]
         4 < b[0].toNat ∧ 2 < (b[1] &&& 0x7F).toNat)
      ∧ (let b : Vector Byte 11 := #v[17, 5, 0x80, 0, 0, 0, 0, 0, 0, 0, 0]
         16 < b[0].toNat ∧ 4 < b[1].toNat ∧ (b[2] &&& 0x7F).toNat = 0)
      ∧ (let b : Vector Byte 11 := #v[3, 5, 61, 61, 0, 0, 0, 0, 0, 0, 0]
         2 < b[0].toNat ∧ 4 < b[1].toNat ∧ 60 < b[2].toNat ∧ 60 < b[3].toNat)
      ∧ (0 : Byte).toNat = 0 ∧ 4 < (5 : Byte).toNat
      ∧ (2047 < 2037 + 11 ∧ 2047 < 2042 + 6 ∧ 2047 < 2041 + 7 ∧ 2047 < 2044 + 4) := by decide +kernel

/-- A write at the command byte as a transfer and as a whole access, in LOADING, in RUNNING with an offer, and unknown codes
next to the known ones. -/
theorem witness_ReloadAndUnknownCommands :
    (let s := machine (atAddress (.writing true) 0x0E (loading .addressing))
     Active s ∧ WritesAt s 0x0E ∧ s.unit.loader.run = .loading)
      ∧ ((0 : Byte) ≠ 1 ∧ (0 : Byte) ≠ 2 ∧ (0 : Byte) ≠ 3) ∧ ((4 : Byte) ≠ 1 ∧ (4 : Byte) ≠ 2 ∧ (4 : Byte) ≠ 3)
      ∧ (let s := machine (slotted (.offered offer) (running 10300))
         Active s ∧ WritesAt s 0x0E ∧ s.unit.loader.run ≠ .loading ∧ LinkOk s.unit) ∧ 9 ≤ 9 ∧ 9 < 10 := by decide +kernel

/-- A write transfer before and after its first byte, at the addresses next to 0x0C and 0x10; one of another address. -/
theorem witness_MaintenanceTransfers :
    Active (machine (atAddress (.writing false) 0 (running 0)))
      ∧ (machine (atAddress .foreign 0 (running 0))).unit.maint.transfer = .foreign
      ∧ (0x38 : BitVec 7) = 0x38 + (running 0).maint.madr.zeroExtend 7 ∧ (0 : BitVec 7) ≠ 0x38 + (running 0).maint.madr.zeroExtend 7
      ∧ (machine (atAddress (.writing false) 0 (running 0))).unit.maint.transfer = .writing false
      ∧ (∀ a ∈ [(0x0B : Byte), 0x11, 0xFF], let s := machine (atAddress (.writing true) a (running 0))
          s.unit.maint.transfer = .writing true ∧ (s.unit.maint.address.toNat < 0x0C ∨ 0x10 < s.unit.maint.address.toNat))
      ∧ Bn24.reset.resetHeld = true ∧ (running 0).resetHeld = false ∧ (running 0).maint.transfer = .idle := by
  decide +kernel

/-- The enables written in one transfer, a second byte without its first, and a CLEAR FLAGS in one write transfer. -/
theorem witness_PairsAreWrittenInOneTransfer :
    (let s := machine (atAddress (.writing true) 0x0C (running 0))
     Active s ∧ WritesAt s 0x0C)
      ∧ (let s := machine (atAddress (.writing true) 0x0D (running 0))
         WritesAt s 0x0D ∧ s.unit.maint.enablesFirst = none)
      ∧ (let s := machine (atAddress (.writing true) 0x0E (running 0))
         s.unit.maint.transfer = .writing true ∧ s.unit.maint.address = 0x0E)
      ∧ (let s := machine (atAddress (.writing true) 0x10 (running 0))
         WritesAt s 0x10 ∧ s.unit.maint.maskWait = .none) := by decide +kernel

/-- The command byte, in a transfer. -/
theorem witness_ClearCountersZeroesThemAll :
    let s := machine (atAddress (.writing true) 0x0E (running 0))
    Active s ∧ WritesAt s 0x0E := by decide +kernel

/-- The first bytes of the fields at the ends of each kind, and their second bytes with the latch holding the field, another
one, or none; a slot that is empty and one that is not. -/
theorem witness_TwoByteFieldsAreReadThroughTheLatch :
    let at' := fun (a : Byte) (latch : Option Latch) =>
      let u := atAddress .reading a (holding 23 busEntry (running 0))
      machine { u with maint := { u.maint with latch := latch } }
    (∀ a ∈ [(0x0A : Byte), 0x0C, 0x20, 0x54, 0x60, 0xBC],
        Active (at' a none) ∧ (at' a none).unit.maint.transfer = .reading ∧ (at' a none).unit.maint.address.toNat = a.toNat
          ∧ (at' (a + 1) none).unit.maint.address.toNat = a.toNat + 1
          ∧ (let held : Latch := { field := (at' (a + 1) none).unit.maint.address - 1, value := 0x1234 }
             (at' (a + 1) (some held)).unit.maint.latch = some { held with value := 0x1234 })
          ∧ (let other : Latch := { field := a - 1, value := 0x1234 }
             ∀ l ∈ (at' (a + 1) (some other)).unit.maint.latch, l.field ≠ (at' (a + 1) (some other)).unit.maint.address - 1))
      ∧ (0x20 = 0x20 + 2 * (0 : Fin 27).val ∧ 0x54 = 0x20 + 2 * (26 : Fin 27).val)
      ∧ (0x60 = 0x60 + 4 * (0 : SlotIx).val ∧ 0xBC = 0x60 + 4 * (23 : SlotIx).val)
      ∧ entryIn (at' 0 none).unit 0 = none ∧ entryIn (at' 0 none).unit 23 = some busEntry
      ∧ (machine (running 0)).unit.maint.transfer = .idle := by decide +kernel

/-- An entry in the last slot, an empty slot, each of the four bytes of a record, and the ends of the single bytes. -/
theorem witness_WindowBytes :
    (let s := machine (atAddress .reading 0xBF (holding 23 armedEntry (running 10300)))
     Active s ∧ s.unit.maint.transfer = .reading ∧ entryIn s.unit 23 = some armedEntry ∧ EntryOk armedEntry
      ∧ s.unit.maint.address.toNat = 0x63 + 4 * (23 : SlotIx).val ∧ entryIn s.unit 0 = none
      ∧ s.unit.maint.latch = none)
      ∧ (∀ a ∈ [(0x60 : Byte), 0x62, 0x63, 0xBC, 0xBE], (machine (atAddress .reading a (running 0))).unit.maint.address = a)
      ∧ (∀ k : Fin 4, ∃ a : Byte, a.toNat = 0x60 + 4 * (0 : SlotIx).val + k.val)
      ∧ (∀ a ∈ [(0x00 : Byte), 0x08, 0x09, 0x0E, 0x0F, 0x10, 0x11, 0x12, 0x1F, 0x56, 0x5F, 0xC0, 0xFF],
          (machine (atAddress .reading a (running 0))).unit.maint.address.toNat = a.toNat)
      ∧ (machine (running 0)).unit.clock.reference ≤ 60 := by
  refine ⟨by decide +kernel, by decide +kernel, fun k => ⟨BitVec.ofNat 8 (0x60 + k.val), ?_⟩, by decide +kernel, by decide⟩
  revert k
  decide

/-- A receiver of either line hunting, waiting for the length, and with 4 and 5 bytes of 5 held; ages of 1 and 2 ds of the last
byte; the lengths at the ends of the range and next to them; a unit outside RUNNING; and one with no command of its own queued,
either line idle for a ds within a message. -/
theorem witness_ReceiversFrameMessages :
    let m : Collected := { length := none, bytes := [], lastEnd := 0 }
    let held := fun n : Nat => ({ length := some 5, bytes := List.replicate n 0xD2, lastEnd := 0 } : Collected)
    (let s := machine (running 0)
     Active s ∧ s.unit.loader.run = .running ∧ s.unit.detection.framing = .hunting ∧ s.unit.controller.framing = .hunting)
      ∧ (∀ c ∈ [m, held 4, held 5],
          let s := machine (setLinkFraming (.collecting c) (setDetFraming (.collecting c) (running 0)))
          Active s ∧ s.unit.loader.run = .running ∧ s.unit.detection.framing = .collecting c
            ∧ s.unit.controller.framing = .collecting c)
      ∧ m.length = none ∧ (0 : Byte).toNat = 0 ∧ 16 < (17 : Byte).toNat ∧ 1 ≤ (1 : Byte).toNat ∧ (16 : Byte).toNat ≤ 16
      ∧ (held 4).length = some 5 ∧ (held 4).bytes.length < (5 : Byte).toNat ∧ (5 : Byte).toNat ≤ (held 5).bytes.length
      ∧ (∃ t : State, exec (.detMessageReceived [0xD2] none) (machine (running 0)) = .next t)
      ∧ (∃ t : State, exec (.controllerMessageReceived [0xD2] none) (machine (running 0)) = .next t)
      ∧ (machine (loading .identity)).unit.loader.run ≠ .running
      ∧ (age 1 m.lastEnd < 2 ∧ 2 ≤ age 2 m.lastEnd ∧ 1 ≤ age 1 m.lastEnd)
      ∧ (Running { pending := [], unit := running 1 } ∧ queuedCommand (running 1) = none
          ∧ (running 1).detection.framing = .hunting) := by
  refine ⟨by decide +kernel, by decide +kernel, by decide, by decide, by decide, by decide, by decide, by decide, by decide,
    by decide, ⟨_, rfl⟩, ⟨_, rfl⟩, by decide +kernel, by decide, by decide +kernel⟩

/-- Messages that fail each test at a bound (kinds 0x30 and 0x34, lengths next to the right one, vehicles 0 and 65535,
class 4, points 17 and of the other kind), and one of each kind that passes (vehicles 1 and 65534, class 3). -/
theorem witness_DetectionMessagesAreTested :
    Running (machine (running 0))
      ∧ ¬ SumsToZero [0x33, 8, 0x9F, 1] 0
      ∧ (∀ k ∈ ([0x30, 8, 0x9F, 1] : List Byte).head?, k ≠ 0x31 ∧ k ≠ 0x32 ∧ k ≠ 0x33)
      ∧ (([0x33, 8, 0x9F, 1, 0] : List Byte).head? = some 0x33 ∧ ([0x33, 8, 0x9F, 1, 0] : List Byte).length ≠ 4)
      ∧ (((0 : Byte) ++ (0 : Byte) : Half) = 0 ∧ ((0xFF : Byte) ++ (0xFF : Byte) : Half) = 0xFFFF ∧ 3 < (4 : Byte).toNat)
      ∧ ((0 : Byte) ++ (1 : Byte) : Half) ≠ 0 ∧ ((0xFF : Byte) ++ (0xFE : Byte) : Half) ≠ 0xFFFF ∧ (3 : Byte).toNat ≤ 3
      ∧ SumsToZero [0x31, 17, 0, 1, 0, 3, 0, 0, 0, 0, 0] (sumCheck [0x31, 17, 0, 1, 0, 3, 0, 0, 0, 0, 0])
      ∧ (∀ q : PointIx, (17 : Byte).toNat ≠ q.val + 1)
      ∧ SumsToZero [0x31, 5, 0, 1, 0, 3, 0, 0, 0, 0, 0] (sumCheck [0x31, 5, 0, 1, 0, 3, 0, 0, 0, 0, 0])
      ∧ (∀ q : PointIx, (5 : Byte).toNat = q.val + 1 → ∀ r ∈ pointRecord (running 0) q, r.kind = .checkOut)
      ∧ SumsToZero [0x32, 3, 0, 1, 0, 3, 0, 0] (sumCheck [0x32, 3, 0, 1, 0, 3, 0, 0])
      ∧ (∀ q : PointIx, (3 : Byte).toNat = q.val + 1 → ∀ r ∈ pointRecord (running 0) q, r.kind = .checkIn)
      ∧ ((3 : Byte).toNat = (3 : Fin 4).val ∧ (3 : Byte).toNat = (2 : PointIx).val + 1
          ∧ pointRecord (running 0) 2 = some point3 ∧ point3.kind = .checkIn
          ∧ (approachRecord (running 0) point3.approach).map (fun a => (a.vMin, a.vMax)) = some (60, 180)
          ∧ SumsToZero [0x31, 3, 0, 1, 0, 3, 0, 0, 0, 0, 0] (sumCheck [0x31, 3, 0, 1, 0, 3, 0, 0, 0, 0, 0]))
      ∧ ((5 : Byte).toNat = (4 : PointIx).val + 1 ∧ pointRecord (running 0) 4 = some point5 ∧ point5.kind = .checkOut
          ∧ SumsToZero [0x32, 5, 0, 1, 0, 3, 0, 0] (sumCheck [0x32, 5, 0, 1, 0, 3, 0, 0]))
      ∧ SumsToZero [0x33, 0, 1, 0] (sumCheck [0x33, 0, 1, 0])
      ∧ (let u := running 0
         let bare := { u with loader := { u.loader with inForce := .fresh } }
         Running (machine bare) ∧ ∀ q : PointIx, pointRecord bare q = none) := by decide +kernel

/-- The ends of the ranges of a distance and a speed. -/
theorem witness_LocalForecasts :
    0 < 1 ∧ (10 ≤ 10 ∧ 10 ≤ 3000 ∧ 20 ≤ 300 ∧ 300 ≤ 300) ∧ (10 ≤ 3000 ∧ 3000 ≤ 3000 ∧ 20 ≤ 20 ∧ 20 ≤ 300) := by decide

/-- Section 2.6: qualities none, fair and good at either end, elapsed at and past the stale limit, and the premise on times. -/
theorem witness_PassageForecasts :
    (senderQuality coarse { frame26 with timed := false } = .none ∧ lockQuality (running 0).clock.lock = .none)
      ∧ (senderQuality coarse frame26 = .good ∧ lockQuality coarse.clock.lock = .fair)
      ∧ lockQuality LockState.fine = .good
      ∧ (let elapsed := fun t : Time => timeDiff t (frame26.departure - coarse.clock.offset)
         ¬ max 0 (elapsed 201130) > ((950 + 300 : Nat) : Int) ∧ max 0 (elapsed 201131) > ((950 + 300 : Nat) : Int)
          ∧ ((950 + 200 : Nat) : Int) - elapsed 200000 ≤ 8388607)
      ∧ PeersOk coarse ∧ frame26.timed = true
      ∧ (∀ p ∈ coarse.clock.peers, p.station = frame26.sender ∧ coarse.loader.inForce.params.referenceTimeout = 70)
      ∧ coarse.clock.peers.head?.map (fun p => (age 200060 p.last, age 200061 p.last)) = some (70, 71) := by decide +kernel

/-- A grant of one member, the bus in slot 4, at a time with a command at hand. -/
def grantHeld (e : Entry) (t : Nat) : Bn24 := slotted (.active grant) (holding 4 e (running t))

/-- A new key with the table empty, an entry of the key in each of the three service states, and a member that at 10,000 fits
its grant (window start 10,467 before the green start 10,560), at 10,300 does not (10,767), or changes its approach. -/
theorem witness_CheckInsMakeEntries :
    (let s := machine (taking (checkIn3 bus) (running 10000))
     TakesDetection s (checkIn3 bus) [] [] ∧ pointRecord s.unit 2 = some point3
      ∧ (∀ d ∈ liveRecent s.unit, d.key ≠ bus) ∧ NoEntry s.unit bus ∧ LowestEmpty s.unit 0)
      ∧ (∀ service ∈ [Service.waiting, .armed, .offered],
          let e := { armedEntry with service := service }
          let s := machine (taking (checkIn3 bus) (holding 23 e (running 10300)))
          TakesDetection s (checkIn3 bus) [] [] ∧ (∀ d ∈ liveRecent s.unit, d.key ≠ bus) ∧ HoldsKey s.unit bus 23 e)
      ∧ ∀ service ∈ [Service.granted, .riding], ∀ t ∈ [10000, 10300], ∀ a ∈ [(0 : ApproachIx), 1],
          let e := { armedEntry with service := service, approach := a }
          let s := machine (taking (checkIn3 bus) (grantHeld e t))
          let taken := { s.unit with detection.inbox := [], table.recent := liveRecent s.unit, table.requests := [] }
          TakesDetection s (checkIn3 bus) [] [] ∧ pointRecord s.unit 2 = some point3 ∧ (∀ d ∈ liveRecent s.unit, d.key ≠ bus)
            ∧ HoldsKey s.unit bus 4 e ∧ s.unit.arbiter.slot = .active grant
            ∧ (Fits taken grant (HoldsGrant grant 4) (checkedIn taken e point3 1 95 92 false) ↔ t = 10000) := by
  refine ⟨by decide +kernel, by decide +kernel, fun service hs t ht a ha => ?_⟩
  refine ⟨?_, ?_, ?_, ?_, ?_, (memberFits_iff _ grant 4 _ ?_).symm.trans ?_⟩ <;> revert service t a <;> decide +kernel

/-- The state of a CHECK-IN on a full table. -/
def crowded (e : SlotIx → Entry) : State := machine (taking (checkIn3 bus) (full e (running 10000)))

/-- Full tables: a FORECAST entry in the last slot that the scan examines; no FORECAST entry, with CONFIRMED entries of the
newcomer's grade less 1 and of its grade; and no WAITING entry at all. -/
theorem witness_FullTableMakesRoomOrRefuses :
    (let s := crowded (fun i => if i = 23 then untimedEntry else busEntry)
     TakesDetection s (checkIn3 bus) [] [] ∧ pointRecord s.unit 2 = some point3
      ∧ (∀ d ∈ liveRecent s.unit, d.key ≠ bus) ∧ NoEntry s.unit bus ∧ (∀ i : SlotIx, entryIn s.unit i ≠ none)
      ∧ ForecastVictim s.unit 23)
    ∧ (∀ g ∈ [5, 6], let s := crowded (fun i => { busEntry with grade := if i = 23 then g else 7 })
        (∀ i : SlotIx, ∀ e ∈ entryIn s.unit i, e.confirmation = .confirmed ∧ (i = 23 ∨ g < e.grade))
          ∧ (newConfirmed s.unit point3 bus 1 95 92 false).grade = 6
          ∧ (entryIn s.unit 23).map (fun e => (e.grade, e.confirmation, e.service)) = some (g, .confirmed, .waiting))
    ∧ (let s := crowded (fun _ => armedEntry)
       ∀ i : SlotIx, ∀ e ∈ entryIn s.unit i, e.service ≠ .waiting) := by
  refine ⟨⟨by decide +kernel, by decide +kernel, by decide +kernel, by decide +kernel, by decide +kernel,
    ⟨23, by decide +kernel, ⟨{ untimedEntry with key := { vehicle := 100, trip := 23 } }, by decide +kernel⟩, ?_⟩⟩,
    by decide +kernel, by decide +kernel⟩
  intro k hk e he
  have hall : ∀ k : SlotIx, k < 23 → ∀ e ∈ entryIn (crowded (fun i => if i = 23 then untimedEntry else busEntry)).unit
      ((crowded (fun i => if i = 23 then untimedEntry else busEntry)).unit.table.evict + k), e.confirmation = .confirmed := by
    decide +kernel
  exact absurd he.2.1 (by rw [hall k hk e he.1]; decide)

/-- A unit that remembers the bus's departure since an age. -/
def departed (ago : Nat) (u : Bn24) : Bn24 :=
  { u with table := { u.table with recent := [{ key := bus, time := u.localTime - ds ago }] } }

/-- A record of the greatest live age, 1,200 ds, and the three commands that meet it. -/
theorem witness_LiveDeparturesDiscardLateItems :
    (∃ d ∈ (departed 1200 (running 10000)).table.recent, d.key = bus ∧ age (departed 1200 (running 10000)).localTime d.time ≤ 1200)
      ∧ (let s := machine (departed 1200 (taking (checkIn3 bus) (running 10000)))
         Active s ∧ TakesDetection s (checkIn3 bus) [] [])
      ∧ TakesDetection (machine (departed 1200 (taking (checkOut5 bus) (running 10000)))) (checkOut5 bus) [] []
      ∧ (let f : ForecastRequest := { key := bus, chain := 0, approach := 1, result := .stale }
         (machine (departed 1200 (asked [.forecast f] (running 10000)))).unit.table.requests = .forecast f :: [] ∧ f.key = bus) := by
  decide +kernel

/-- An entry in each of the three service states on an approach that reports onward; a CHECK-OUT without an entry; a unit
whose link names no downstream station; and a member of a grant. -/
theorem witness_CheckOutsAreReported :
    (∀ service ∈ [Service.waiting, .armed, .offered],
        let e := { armedEntry with service := service }
        let s := machine (taking (checkOut5 bus) (holding 4 e (running 10300)))
        TakesDetection s (checkOut5 bus) [] [] ∧ pointRecord s.unit 4 = some point5 ∧ (∀ d ∈ liveRecent s.unit, d.key ≠ bus)
          ∧ HoldsKey s.unit bus 4 e)
      ∧ ReportsOnward (running 10300) point5.approach
      ∧ (let s := machine (taking (checkOut5 bus) (running 10300))
         TakesDetection s (checkOut5 bus) [] [] ∧ NoEntry s.unit bus)
      ∧ (let u := running 0
         let last := { u with loader := { u.loader with inForce := { site with outbound := some { outboundLink with downstream := 0 } } } }
         (linkRecord last .outbound).map LinkRecord.downstream = some 0
          ∧ (approachRecord last point5.approach).map ApproachRecord.role = some .outbound)
      ∧ (∀ service ∈ [Service.granted, .riding],
          let e := { armedEntry with service := service }
          let s := machine (taking (checkOut5 bus) (grantHeld e 10300))
          TakesDetection s (checkOut5 bus) [] [] ∧ pointRecord s.unit 4 = some point5 ∧ (∀ d ∈ liveRecent s.unit, d.key ≠ bus)
            ∧ HoldsKey s.unit bus 4 e ∧ s.unit.arbiter.slot = .active grant) := by
  refine ⟨by decide +kernel, ⟨outboundApproach, by decide +kernel, .inl ⟨rfl, outboundLink, by decide +kernel, by decide⟩⟩,
    by decide +kernel, by decide +kernel, by decide +kernel⟩

/-- A CANCEL of a key with no entry, and of an entry in each of the three service states. -/
theorem witness_CancelRemovesAndWithdraws :
    (let s := machine (taking (.cancel bus) (running 10300))
     TakesDetection s (.cancel bus) [] [] ∧ NoEntry s.unit bus)
      ∧ ∀ service ∈ [Service.waiting, .armed, .offered],
          let e := { armedEntry with service := service }
          let s := machine (taking (.cancel bus) (holding 0 e (running 10300)))
          TakesDetection s (.cancel bus) [] [] ∧ HoldsKey s.unit bus 0 e := by decide +kernel

/-- The request of a forecast of the bus: the window of section 3.5 on an approach, GOOD, grade 6. -/
def forecast35 (a : ApproachIx) : ForecastRequest :=
  { key := bus, chain := 15, approach := a, result := .timed { start := 10467, stop := 10595 } .good 6 }

/-- The entry of section 3.5 as a FORECAST one. -/
def forecastEntry (service : Service) : Entry :=
  { armedEntry with confirmation := .forecast, quality := some .good, service := service }

/-- The same after that request. -/
def forecastAgain (a : ApproachIx) (service : Service) : Entry :=
  { forecastEntry service with chain := 15, approach := a, updated := 10300 }

/-- A forecast request that finds no entry, a CONFIRMED one and a WAITING FORECAST one, with each kind of result; FORECAST
entries ARMED, OFFERED and in a grant, the offered call and the grant's fit standing on approach 2 only; and full tables with
and without a FORECAST entry in WAITING. -/
theorem witness_ForecastRequestsByTheFirstCase :
    let ask := fun r : ForecastResult => ({ key := bus, chain := 15, approach := 1, result := r } : ForecastRequest)
    let timed := ask (.timed { start := 1, stop := 2 } .good 15)
    (let s := machine (asked [.forecast timed] (running 10000))
     Running s ∧ s.unit.table.requests = .forecast timed :: [] ∧ (∀ d ∈ liveRecent s.unit, d.key ≠ bus) ∧ NoEntry s.unit bus
      ∧ LowestEmpty s.unit 0 ∧ KeysOk s.unit)
      ∧ (let s := machine (asked [.forecast timed] (holding 7 busEntry (running 10000)))
         HoldsKey s.unit bus 7 busEntry ∧ busEntry.confirmation = .confirmed)
      ∧ (let s := machine (asked [.forecast timed] (holding 7 untimedEntry (running 10000)))
         HoldsKey s.unit bus 7 untimedEntry ∧ untimedEntry.confirmation = .forecast ∧ untimedEntry.service = .waiting
          ∧ KeysOk s.unit)
      ∧ (∃ w q, timed.result = .timed w q 15) ∧ (ask (.untimed 0)).result = .untimed 0 ∧ (ask .stale).result = .stale
      ∧ (∀ a ∈ [(0 : ApproachIx), 1],
          (let s := machine (asked [.forecast (forecast35 a)]
              (slotted (.offered offer) (holding 4 (forecastEntry .offered) (seeing redView (running 10300)))))
           let taken := { s.unit with table.recent := liveRecent s.unit, table.requests := [] }
           Running s ∧ HoldsKey s.unit bus 4 (forecastEntry .offered) ∧ (CallStands taken (forecastAgain a .offered) ↔ a = 1))
          ∧ HoldsKey (holding 4 (forecastEntry .armed) (running 10300)) bus 4 (forecastEntry .armed)
          ∧ ∀ service ∈ [Service.granted, .riding],
              let s := machine (asked [.forecast (forecast35 a)] (grantHeld (forecastEntry service) 10300))
              let taken := { s.unit with table.recent := liveRecent s.unit, table.requests := [] }
              Running s ∧ HoldsKey s.unit bus 4 (forecastEntry service) ∧ s.unit.arbiter.slot = .active grant
                ∧ (Fits taken grant (HoldsGrant grant 4) (forecastAgain a service) ↔ a = 1))
      ∧ (let s := machine (asked [.forecast (forecast35 1)] (full (fun _ => busEntry) (running 10300)))
         Running s ∧ NoEntry s.unit bus ∧ (∀ i : SlotIx, entryIn s.unit i ≠ none)
          ∧ ∀ i : SlotIx, ∀ e ∈ entryIn s.unit i, e.confirmation ≠ .forecast)
      ∧ (let u := asked [.forecast (forecast35 1)] (full (fun _ => untimedEntry) (running 10300))
         NoEntry u bus ∧ (∀ i : SlotIx, entryIn u i ≠ none) ∧ ForecastVictim u 0) := by
  refine ⟨by decide +kernel, by decide +kernel, by decide +kernel, ⟨_, _, rfl⟩, rfl, rfl, fun a ha =>
      ⟨⟨?_, ?_, (callStands_iff _ _).symm.trans ?_⟩, ?_, fun service hs =>
        ⟨?_, ?_, ?_, (memberFits_iff _ grant 4 _ ?_).symm.trans ?_⟩⟩,
    by decide +kernel, by decide +kernel, by decide +kernel, 0, by decide +kernel,
    ⟨{ untimedEntry with key := { vehicle := 100, trip := 0 } }, by decide +kernel⟩, fun k hk => absurd hk (by simp)⟩
  · revert a; decide +kernel
  · revert a; decide +kernel
  · revert a; decide +kernel
  · revert a; decide +kernel
  all_goals revert service a; decide +kernel

/-- An invalidation of a key with no entry, of a CONFIRMED entry, of a FORECAST entry outside a grant, and of a member. -/
theorem witness_InvalidationRemovesForecasts :
    (let s := machine (asked [.invalidation bus] (running 10000))
     Active s ∧ s.unit.table.requests = .invalidation bus :: [] ∧ NoEntry s.unit bus)
      ∧ ∀ c ∈ [Confirmation.confirmed, .forecast], ∀ service ∈ [Service.waiting, .armed, .offered, .granted, .riding],
          let e := { armedEntry with confirmation := c, service := service }
          let s := machine (asked [.invalidation bus] (slotted (.active grant) (holding 4 e (running 10300))))
          Active s ∧ s.unit.table.requests = .invalidation bus :: [] ∧ HoldsKey s.unit bus 4 e := by decide +kernel

/-- The window end plus the stale limit (10,895) just reached and just passed, and the untimed life (1,800) likewise, for
WAITING, ARMED and OFFERED entries of either confirmation and for members of a grant. -/
theorem witness_TableTimersRemoveWhatHasExpired :
    (∀ service ∈ [Service.waiting, .armed, .offered, .granted, .riding], ∀ c ∈ [Confirmation.confirmed, .forecast],
        let e := { armedEntry with service := service, confirmation := c }
        let s := machine (grantHeld e 10896)
        Active s ∧ entryIn s.unit 4 = some e ∧ s.unit.arbiter.slot = .active grant
          ∧ (∀ w ∈ e.window, later 10896 (w.stop + ds s.unit.loader.inForce.params.staleLimit) = true
              ∧ later 10895 (w.stop + ds s.unit.loader.inForce.params.staleLimit) = false))
      ∧ (let s := machine (holding 4 untimedEntry (running 11801))
         entryIn s.unit 4 = some untimedEntry ∧ untimedEntry.window = none ∧ untimedEntry.confirmation = .forecast
          ∧ age 11801 untimedEntry.updated > (s.unit.loader.inForce.params.untimedLife : Int)
          ∧ age 11800 untimedEntry.updated ≤ (s.unit.loader.inForce.params.untimedLife : Int))
      ∧ (Active (machine (running 0)) ∧ entryIn (machine (running 0)).unit 0 = none) := by decide +kernel

/-- A grant with members in slots 8 to 7 + n beside the entry in slot 4. -/
def grantOf (n : Nat) : Grant :=
  { grant with members := (List.range n).map (fun k => { slot := Fin.ofNat 24 (8 + k), key := { vehicle := 9, trip := BitVec.ofNat 8 k } }) }

/-- The evaluation of the entry of section 3.5 under a grant slot. -/
def evaluating (g : GrantSlot) (v : PhaseRecord) (e : Entry) (u : Bn24) : State :=
  machine (asked [.evaluation { slot := 4, key := bus }] (slotted g (holding 4 e (seeing v u))))

/-- A GREEN view of approach 2. -/
def greenView (toChange : Nat) : PhaseRecord :=
  { state := .green, toChange := toChange, toNextGreen := 0, inhibit := false, received := 10300 }

/-- No view; held by grade 0; and at 10,300 each outcome at its bound: window end on the green end and one ds past it (RIDES,
EXTEND), need 200 and 210 (EXTEND, WAIT), window start on the next green and one ds before it (WAIT, EARLY), advance 150 and
160 (EARLY, EARLY partial), and a limit of 0 (WAIT); under each grant slot, a grant that the entry fits among them, with 3 and
with 4 members. -/
theorem witness_EvaluationsWriteTheirOutcome :
    (∀ g ∈ [GrantSlot.free, .offered { offer with entry := none }, .active (grantOf 3), .active (grantOf 4)],
     ∀ e ∈ [busEntry, armedEntry],
     let s := evaluating g redView e (running 10300)
     Active s ∧ s.unit.table.requests = .evaluation { slot := 4, key := e.key } :: []
      ∧ entryIn s.unit 4 = some e ∧ (e.service = .waiting ∨ e.service = .armed)
      ∧ s.unit.arbiter.slot = g ∧ phaseOf s.unit e.approach = some redView
      ∧ e.grade ≠ 0 ∧ (approachRecord s.unit e.approach).map ApproachRecord.enabled = some true
      ∧ redView.inhibit = false ∧ s.unit.controller.silent = false ∧ s.unit.loader.run = .running
      ∧ e.confirmation = .confirmed ∧ e.declined = none)
      ∧ ((grantOf 3).members.length < 4 ∧ ¬ (grantOf 4).members.length < 4 ∧ fitsGrant (running 10300) (grantOf 3) false busEntry = true)
      ∧ phaseOf (running 10300) busEntry.approach = none ∧ ({ busEntry with grade := 0 } : Entry).grade = 0
      ∧ (let past := fun toChange : Nat => timeDiff 10595 (10300 + ds (agedTime 10300 10300 toChange))
         let need := fun toChange : Nat => ((past toChange + 20).toNat + 9) / 10 * 10
         past 295 ≤ 0 ∧ 0 < past 294 ∧ need 115 ≤ 200 ∧ 200 < need 114)
      ∧ (let start := fun toNext : Nat => timeDiff 10467 (10300 + ds (agedTime 10300 10300 toNext))
         let advance := fun toNext : Nat => ((-start toNext).toNat + 9) / 10 * 10
         0 ≤ start 167 ∧ start 168 < 0 ∧ advance 317 ≤ 150 ∧ 150 < advance 318 ∧ 10 ≤ 150 ∧ 0 < advance 168) := by
  decide +kernel

/-- Section 3.5 at 10,300, with limits that are multiples of 10. -/
theorem witness_DecidedAmountsAreWithinTheLimits :
    (∀ a : ApproachIx, ∀ r ∈ approachRecord (running 10300) a, r.tMax % 10 = 0)
      ∧ verdictOf (seeing redView (running 10300)) busEntry = .call early100 := by decide +kernel

/-- A rival of the entry of section 3.5 that ties with it in grade and window start, in a higher slot. -/
def rivals : Bn24 := holding 5 { armedEntry with key := other } (holding 4 armedEntry (running 10300))

/-- Nothing ARMED, a taken slot, a unit that is not RUNNING, a silent controller; and a selection that goes by the slot. -/
theorem witness_SelectionOffersTheBestEntry :
    (∀ i : SlotIx, ∀ e ∈ entryIn (running 0) i, e.service ≠ .armed) ∧ (slotted (.offered offer) (running 0)).arbiter.slot ≠ .free
      ∧ (loading .identity).loader.run ≠ .running
      ∧ rivals.arbiter.slot = .free ∧ rivals.loader.run = .running ∧ rivals.controller.silent = false
      ∧ entryIn rivals 4 = some armedEntry ∧ armedEntry.service = .armed ∧ armedEntry.decision = some early100
      ∧ (∀ j : SlotIx, ∀ f ∈ entryIn rivals j, f.service = .armed → j ≠ 4 →
          f.grade = armedEntry.grade ∧ 4 < j ∧ ∀ w ∈ armedEntry.window, ∀ x ∈ f.window, earlier x.start w.start = false)
      ∧ (rivals.controller.sending = none → rivals.controller.waiting = []) := by decide +kernel

/-- WAITING and ARMED entries with the slot FREE, one with a mark of the other class among them; each state that an evaluation passes over; and an ACTIVE grant of 3 and
of 4 members that the entry fits, and one of another approach that it does not. -/
theorem witness_EvaluationsReachTheArbiter :
    (∀ e ∈ [busEntry, armedEntry, { busEntry with declined := some .green }],
        let s := machine (asked [.evaluation { slot := 4, key := bus }] (holding 4 e (seeing redView (running 10300))))
        Active s ∧ s.unit.table.requests = .evaluation { slot := 4, key := e.key } :: [] ∧ entryIn s.unit 4 = some e
          ∧ (∀ v ∈ phaseOf s.unit e.approach, e.declined ≠ some (classOf v.state)) ∧ s.unit.arbiter.slot = .free ∧ verdictOf s.unit e = .call early100)
      ∧ (∀ service ∈ [Service.offered, .granted, .riding],
          ∀ e ∈ entryIn (holding 4 { armedEntry with service := service } (running 0)) 4, e.service = service)
      ∧ entryIn (running 0) 4 = none
      ∧ (let at' := fun g : Grant =>
          machine (asked [.evaluation { slot := 4, key := bus }] (slotted (.active g) (holding 4 busEntry (seeing redView (running 10305)))))
         let s := at' (grantOf 3)
         Active s ∧ entryIn s.unit 4 = some busEntry ∧ s.unit.arbiter.slot = .active (grantOf 3)
          ∧ evaluationVerdict s.unit busEntry ≠ .hold ∧ (grantOf 3).members.length < 4
          ∧ fitsGrant s.unit (grantOf 3) false busEntry = true ∧ 4 ≤ (grantOf 4).members.length
          ∧ fitsGrant s.unit { grantOf 3 with approach := 0 } false busEntry = false
          ∧ evaluationVerdict s.unit { busEntry with grade := 0 } = .hold) := by decide +kernel

/-- A join request. -/
def joining (g : GrantSlot) (e : Entry) : State :=
  let u := slotted g (holding 4 e (running 10305))
  machine { u with arbiter := { u.arbiter with joins := [{ slot := 4, key := bus }] } }

/-- No grant, an entry that is no longer WAITING or ARMED, and fits at the bounds: EXTEND with the window end plus the margin on
the edge and past it, EARLY with the window start on the edge and on the recorded green start; 3 and 4 members. -/
theorem witness_JoinRequestsAdmitRiders :
    (let s := joining (.active (grantOf 3)) armedEntry
     Active s ∧ s.unit.arbiter.joins = { slot := 4, key := bus } :: [] ∧ s.unit.arbiter.slot = .active (grantOf 3)
      ∧ entryIn s.unit 4 = some armedEntry ∧ armedEntry.key = bus ∧ armedEntry.window = some { start := 10467, stop := 10595 }
      ∧ armedEntry.service = .armed ∧ 1 ≤ armedEntry.grade ∧ armedEntry.approach = (grantOf 3).approach
      ∧ (grantOf 3).members.length < 4 ∧ 4 ≤ (grantOf 4).members.length
      ∧ s.unit.loader.inForce.params.margin = 20)
      ∧ (timeDiff (10595 + ds 20) 10615 ≤ 0 ∧ ¬ timeDiff (10595 + ds 20) 10614 ≤ 0)
      ∧ (timeDiff 10467 10467 ≤ 0 ∧ timeDiff (10467 : Time) 10468 < 0 ∧ ¬ timeDiff (10467 : Time) 10467 < 0)
      ∧ (joining .free armedEntry).unit.arbiter.slot = .free
      ∧ (∀ service ∈ [Service.offered, .granted, .riding],
          ∀ e ∈ entryIn (joining .free { armedEntry with service := service }).unit 4, e.service = service) := by decide +kernel

/-- The offer of section 3.5 at 10,305, with its ACCEPT; and a unit that sees no phase of its approach. -/
theorem witness_AcceptBeginsAGrant :
    let s := machine (slotted (.offered offer) (holding 4 { armedEntry with service := .offered } (seeing redView (running 10305))))
    Running s ∧ s.unit.controller.silent = false ∧ s.unit.arbiter.slot = .offered offer
      ∧ offer.entry = some { slot := 4, key := bus } ∧ offer.id ≠ 0
      ∧ entryIn s.unit 4 = some { armedEntry with service := .offered }
      ∧ armedEntry.window = some { start := 10467, stop := 10595 } ∧ phaseOf s.unit offer.approach = some redView
      ∧ SumsToZero [0x42, offer.id] (sumCheck [0x42, 1])
      ∧ phaseOf (slotted (.offered offer) (holding 4 { armedEntry with service := .offered } (running 10305))) offer.approach = none := by
  decide +kernel

/-- An abandoned offer with its ACCEPT, and replies of ids 1, 2 and 255 while FREE, OFFERED and ACTIVE. -/
theorem witness_RepliesToNoStandingOffer :
    (let s := machine (slotted (.offered { offer with entry := none }) (running 10305))
     Running s ∧ s.unit.controller.silent = false ∧ s.unit.arbiter.slot = .offered { offer with entry := none }
      ∧ offer.id ≠ 0 ∧ SumsToZero [0x42, offer.id] (sumCheck [0x42, 1]) ∧ LinkOk s.unit)
      ∧ (running 0).arbiter.slot = .free ∧ offer.id ≠ 2 ∧ grant.id ≠ 255 ∧ grant.id = 1
      ∧ (slotted (.active grant) (running 0)).arbiter.slot = .active grant
      ∧ (∀ id ∈ [(1 : Byte), 2, 255], id ≠ 0 ∧ SumsToZero [0x42, id] (sumCheck [0x42, id])
          ∧ SumsToZero [0x43, id] (sumCheck [0x43, id])) := by decide +kernel

/-- The offer with its DECLINE, at the reply wait end (10,310) and one ds before it, standing and abandoned. -/
theorem witness_DeclineAndTimeoutEndAnOffer :
    (let s := machine (slotted (.offered offer) (holding 4 { armedEntry with service := .offered } (seeing redView (running 10310))))
     Running s ∧ s.unit.arbiter.slot = .offered offer ∧ offer.entry = some { slot := 4, key := bus }
      ∧ entryIn s.unit 4 = some { armedEntry with service := .offered }
      ∧ phaseOf s.unit armedEntry.approach = some redView ∧ s.unit.controller.silent = false ∧ offer.id ≠ 0
      ∧ SumsToZero [0x43, offer.id] (sumCheck [0x43, 1]) ∧ 0 ≤ timeDiff s.unit.localTime offer.replyEnd)
      ∧ ¬ 0 ≤ timeDiff 10309 offer.replyEnd ∧ ({ offer with entry := none } : Offer).entry = none
      ∧ phaseOf (holding 4 { armedEntry with service := .offered } (running 10310)) armedEntry.approach = none := by decide +kernel

/-- A grant of members, the bus in slot 4 and a second bus in slot 9, at a time. -/
def membersAt (members : List EntryRef) (service : Service) (e : Entry) (t : Nat) : Bn24 :=
  slotted (.active { grant with members := members })
    (holding 9 { busEntry with key := other, service := .riding, served := true }
      (holding 4 { e with service := service, served := true } (running t)))

/-- A rider that leaves, a holder that leaves one rider, and the only member; each command that removes one, the window of
section 3.5 and the untimed life just over. -/
theorem witness_MembersLeaveTheGrant :
    let first : EntryRef := { slot := 4, key := bus }
    let second : EntryRef := { slot := 9, key := other }
    let left := fun members : List EntryRef => members.filter (fun m => decide (m ≠ first))
    (left [second, first] ≠ [] ∧ [second, first].head? ≠ some first)
      ∧ ((left [first, second]).head? = some second ∧ [first, second].head? = some first
          ∧ entryIn (membersAt [first, second] .granted busEntry 10400) 9 =
              some { busEntry with key := other, service := .riding, served := true })
      ∧ (left [first] = [] ∧ LinkOk (membersAt [first] .granted busEntry 10400))
      ∧ (∀ members ∈ [[second, first], [first, second], [first]], ∀ service ∈ [Service.granted, .riding],
          ∀ e ∈ [busEntry, { busEntry with confirmation := .forecast, quality := some .good }, untimedEntry],
          let u := membersAt members service e 11801
          let cancels := machine (taking (.cancel bus) u)
          let leaves := machine (taking (checkOut5 bus) u)
          Running (machine u) ∧ HoldsKey u bus 4 { e with service := service, served := true }
            ∧ u.arbiter.slot = .active { grant with members := members }
            ∧ TakesDetection cancels (.cancel bus) [] [] ∧ TakesDetection leaves (checkOut5 bus) [] []
            ∧ pointRecord leaves.unit 4 = some point5 ∧ (∀ d ∈ liveRecent leaves.unit, d.key ≠ bus)
            ∧ (asked [.invalidation bus] u).table.requests = .invalidation bus :: []
            ∧ (∀ w ∈ e.window, later u.localTime (w.stop + ds u.loader.inForce.params.staleLimit) = true)
            ∧ age u.localTime e.updated > (u.loader.inForce.params.untimedLife : Int)) := by decide +kernel

/-- The deadline of section 3.5 (10,645), reached and passed. -/
theorem witness_DeadlineEndsTheGrant :
    let s := machine (slotted (.active grant) (holding 4 { armedEntry with service := .granted, served := true } (running 10646)))
    Running s ∧ s.unit.arbiter.slot = .active grant ∧ LinkOk s.unit ∧ later s.unit.localTime grant.deadline = true
      ∧ later 10645 grant.deadline = false := by decide +kernel

/-- A PHASE STATUS of each signal state on approach 4, fields next to their sets (approaches 0 and 5, codes 0 and 5), kinds
0x40 and 0x44, wrong lengths, ids of 0, and a unit outside RUNNING. -/
theorem witness_ControllerMessagesAreChecked :
    Running (machine (running 0)) ∧ (4 : Byte).toNat = (3 : ApproachIx).val + 1
      ∧ (∀ code ∈ [(1 : Byte), 2, 3, 4], SumsToZero [0x41, 4, code, 0, 0, 0, 0, 0] (sumCheck [0x41, 4, code, 0, 0, 0, 0, 0]))
      ∧ ((0 : Byte).toNat = 0 ∧ 4 < (5 : Byte).toNat) ∧ ¬ SumsToZero [0x41] 0
      ∧ (∀ kind ∈ [(0x40 : Byte), 0x44, 0x51, 0x52], ∀ k ∈ [kind].head?, k ≠ 0x41 ∧ k ≠ 0x42 ∧ k ≠ 0x43)
      ∧ (∀ kind ∈ [(0x42 : Byte), 0x43], [kind].head? = some kind ∧ [kind].length ≠ 2)
      ∧ ([0x41, 4, 1] : List Byte).length ≠ 8 ∧ Active (machine (loading .identity))
      ∧ (machine (loading .identity)).unit.loader.run ≠ .running := by decide +kernel

/-- 29 and 30 ds of silence with the slot FREE, OFFERED, abandoned and ACTIVE, and a silence request. -/
theorem witness_ControllerSilence :
    (let s := machine { running 0 with localTime := 30 }
     Running s ∧ s.unit.controller.silent = false ∧ s.unit.controller.silenceStart = some 0 ∧ age 29 0 < 30
      ∧ 30 ≤ age s.unit.localTime 0 ∧ s.unit.arbiter.slot = .free)
      ∧ (let s := machine (slotted (.offered offer) (holding 4 { armedEntry with service := .offered } { running 0 with localTime := 30 }))
         s.unit.arbiter.slot = .offered offer ∧ offer.entry = some { slot := 4, key := bus }
          ∧ entryIn s.unit 4 = some { armedEntry with service := .offered } ∧ armedEntry.key = bus)
      ∧ ({ offer with entry := none } : Offer).entry = none
      ∧ (let s := machine (slotted (.active grant) { running 0 with localTime := 30 })
         s.unit.arbiter.slot = .active grant ∧ LinkOk s.unit)
      ∧ Active (machine (asked [.silence] (running 0)))
      ∧ (machine (asked [.silence] (running 0))).unit.table.requests = .silence :: [] := by decide +kernel

/-- A CALL on the line with a CLEAR behind it. -/
theorem witness_LinkSendsInOrder :
    let u := running 0
    let s := machine { u with controller := { u.controller with sending := some (.call 1 1 .early 100), waiting := [.clear 1] } }
    Active s ∧ s.unit.controller.sending = some (.call 1 1 .early 100) := by decide +kernel

/-- The port in a state, with a line timer. -/
def ported (state : PortState) (timer : Nat) (u : Bn24) : Bn24 :=
  { u with port := { u.port with state := state, lineTimer := some timer } }

/-- A frame being decoded. -/
def decoding (fault : Bool) (u : Bn24) : Bn24 :=
  { u with port := { u.port with decoding := some { startMark := u.localTime, afterFault := fault } } }

/-- The quiet wait just short of 15 and of 200 slot times and at them; each port state; a frame being decoded or none. -/
theorem witness_LineTimingAndDecoding :
    (let s := machine (ported .quietWait 0 (running 0))
     Active s ∧ s.unit.port.state = .quietWait ∧ s.unit.port.decoding = none ∧ min 200 (s.unit.port.recessive + 200) = 200
      ∧ ¬ min 200 (s.unit.port.recessive + 199) = 200 ∧ s.unit.port.edgeSeen = false)
      ∧ (LineLevel.recessive 0 ≠ .dominant ∧ ¬ 15 < 15 ∧ 14 < 15)
      ∧ (∀ edge ∈ [false, true], (LineReport.mk edge 15 (.recessive 15)).edge = edge)
      ∧ (let s := machine (after .pulseNotFrame (ported .quietWait 0 (running 0)))
         s.unit.port.state = .quietWait ∧ s.unit.port.edgeSeen = true ∧ 15 ≤ min 200 (s.unit.port.lineTimer.getD 0 + 15)
          ∧ ¬ 15 ≤ min 200 (s.unit.port.lineTimer.getD 0 + 14))
      ∧ (∀ p ∈ [PortState.off, .contend, .send], (machine (ported p 0 (running 0))).unit.port.state = p)
      ∧ (∀ p ∈ [PortState.quietWait, .idle, .receive, .silent],
          (machine (ported p 0 (running 0))).unit.port.state ≠ .off ∧ (machine (ported p 0 (running 0))).unit.port.state ≠ .contend
            ∧ (machine (ported p 0 (running 0))).unit.port.state ≠ .send
            ∧ (machine (ported p 0 (running 0))).unit.port.decoding = none)
      ∧ (decoding false (running 0)).port.decoding ≠ none
      ∧ (decoding true (ported .receive 0 (running 0))).port.decoding = some { startMark := 0, afterFault := true } := by
  decide +kernel

/-- A queued WITHDRAW that entered at a time. -/
def withdraw (entryTime : Time) : QueuedFrame :=
  { body := .withdraw bus, urgency := 1, entryTime := entryTime, sender := 21, underAttempt := false }

/-- The unit at 100 with frames queued. -/
def queued (q : List QueuedFrame) : Bn24 := { running 100 with port := { (running 100).port with queue := q } }

/-- 14 and 15 slot times; a head over the send budget of 20 ds (age 21) before one within it (age 20); and an attempt in each
driving state. -/
theorem witness_AttemptsBeginAndEnd :
    (let s := machine (queued [withdraw 79, withdraw 80])
     Active s ∧ s.unit.port.state = .idle ∧ min 200 (s.unit.port.lineTimer.getD 0 + 0) = 15
      ∧ s.unit.port.queue = [withdraw 79] ++ withdraw 80 :: []
      ∧ (∀ g ∈ [withdraw 79], (s.unit.loader.inForce.params.sendBudget : Int) < age s.unit.localTime g.entryTime)
      ∧ ¬ (s.unit.loader.inForce.params.sendBudget : Int) < age s.unit.localTime (withdraw 80).entryTime)
      ∧ (machine (queued [withdraw 79])).unit.port.queue = [withdraw 79]
      ∧ (machine (ported .silent 0 (running 0))).unit.port.state ≠ .idle
      ∧ min 200 ((machine (ported .idle 0 (running 0))).unit.port.lineTimer.getD 0 + 14) < 15
      ∧ (LineLevel.recessive 0 ≠ .dominant ∧ ¬ LineLevel.dominant ≠ .dominant)
      ∧ (∀ p ∈ [PortState.contend, .send],
          let u := ported p 15 (running 0)
          let a : Attempt := { start := 0, header := 0x6475, payload := [], check := 0 }
          let s := machine { u with port := { u.port with attempt := some a } }
          Active s ∧ s.unit.port.attempt = some a ∧ s.unit.port.state = p)
      ∧ (∀ p ∈ [PortState.off, .quietWait, .idle, .receive, .silent],
          let s := machine (ported p 15 (running 0))
          Active s ∧ s.unit.port.state ≠ .contend ∧ s.unit.port.state ≠ .send) := by decide +kernel

/-- Headers of kinds 0 and 4, of a BEACON with 4 bytes, of senders 0, 1, 60 and 61, and of the unit's own number 21; with the
right check and a wrong one; a frame being decoded after a line fault or not. -/
theorem witness_ReceivedFramesAreTestedAndDelivered :
    (let s := machine (decoding true (ported .receive 0 (running 0)))
     Active s ∧ s.unit.port.state ≠ .off ∧ s.unit.port.state ≠ .contend ∧ s.unit.port.state ≠ .send
      ∧ ∃ d ∈ s.unit.port.decoding, d.afterFault = true)
      ∧ ¬ (∃ d ∈ (machine (decoding false (running 0))).unit.port.decoding, d.afterFault = true)
      ∧ (∀ kind ∈ [0, 4], headerKind (makeHeader 3 kind 7 5) = kind)
      ∧ (headerKind (makeHeader 3 1 7 4) = 1 ∧ ([0, 0, 0, 0] : List Byte).length = headerLength (makeHeader 3 1 7 4)
          ∧ ([0, 0, 0, 0] : List Byte).length ≠ 5)
      ∧ (∀ sender ∈ [0, 1, 21, 60, 61], headerSender (makeHeader 3 1 sender 5) = sender)
      ∧ frameCheck 0x6475 [0, 0, 0, 1, 0] ≠ frameCheck 0x6475 [0, 0, 0, 1, 0] + 1
      ∧ (∀ k ∈ [(1, 5), (2, 10), (3, 3)], headerKind (makeHeader 3 k.1 60 k.2) = k.1 ∧ headerLength (makeHeader 3 k.1 60 k.2) = k.2)
      ∧ (running 0).loader.inForce.station = 21 := by
  refine ⟨⟨by decide +kernel, by decide +kernel, by decide +kernel, by decide +kernel,
    ⟨{ startMark := 0, afterFault := true }, by decide +kernel, rfl⟩⟩, ?_, by decide +kernel, by decide +kernel, by decide +kernel,
    by decide +kernel, by decide +kernel, by decide +kernel⟩
  rintro ⟨d, hd, hf⟩
  have hall : ∀ d ∈ (machine (decoding false (running 0))).unit.port.decoding, d.afterFault = false := by decide +kernel
  exact absurd hf (by rw [hall d hd]; decide)

/-- A driven attempt, and a check that differs. -/
theorem witness_FrameCheckIsTheCyclicRedundancyCheck :
    (let u := ported .contend 0 (running 0)
     let a : Attempt := { start := 0, header := 0x6475, payload := [], check := 0 }
     let v := { u with port := { u.port with attempt := some a } }
     v.port.state = .contend ∧ v.port.attempt = some a) ∧ frameCheck 0x6475 [] ≠ frameCheck 0x6475 [] + 1 := by decide +kernel

/-- Frames of each kind at the bounds of urgency (7), sender (1 and 60), chain (15), next (60) and lateness. -/
theorem witness_SentFramesAreReadAsSent :
    (∀ sender ∈ [1, 60], 7 < 8 ∧ 1 ≤ sender ∧ sender ≤ 60) ∧ (running 0).clock.reference ≤ 60
      ∧ ((15 : Nat) ≤ 15 ∧ (60 : Nat) ≤ 60)
      ∧ ∀ late ∈ [(-32768 : Int), 32767], -32768 ≤ late ∧ late ≤ 32767 := by decide

/-- The port OFF, SILENT and placing; queues of 5 and 6; a BEACON queued; a full queue that only its own urgencies fill, and
one whose last frame gives way. -/
theorem witness_OfferedFramesArePlacedByUrgency :
    let w := withdraw 0
    let beacon : QueuedFrame := { w with body := .beacon, urgency := 3 }
    let low : QueuedFrame := { w with urgency := 4 }
    let six := List.replicate 6 w
    QueueOk (queued six) ∧ QueueOk (queued (List.replicate 5 w)) ∧ QueueOk (queued (List.replicate 5 w ++ [beacon]))
      ∧ (ported .off 0 (running 0)).port.state = .off ∧ (ported .silent 0 (running 0)).port.state = .silent
      ∧ (queued six).port.state ≠ .off ∧ (queued six).port.state ≠ .silent
      ∧ (List.replicate 5 w).length < 6 ∧ (∀ g ∈ six, g.body ≠ .beacon) ∧ beacon.body = .beacon
      ∧ six.length = 6 ∧ (∀ g ∈ six, g.underAttempt = true ∨ g.urgency ≤ 1)
      ∧ QueueOk (queued (List.replicate 5 w ++ [low])) ∧ (List.replicate 5 w ++ [low]).length = 6
      ∧ low.underAttempt = false ∧ 3 < low.urgency
      ∧ (∀ h ∈ List.replicate 5 w ++ [low], h.underAttempt = false → h.urgency ≤ low.urgency)
      ∧ ∀ h ∈ ([] : List QueuedFrame), h.underAttempt = false → h.urgency < low.urgency := by decide +kernel

/-- The unit at a time with items that wait for the handler. -/
def handed (t : Nat) (requests : List HandlerRequest) (frames : List ReceivedFrame) : State :=
  machine { running t with handler := { requests := requests, frames := frames } }

/-- A PASSAGE request of the lowest grade of the higher urgency. -/
def request8 : PassageRequest :=
  { key := bus, routeClass := 1, lateness := 95, chain := 0, grade := 8, approach := 1, checkOut := 10470 }

/-- A PASSAGE request that reports onward; a WITHDRAW request; the beacon timer at 20 and 19 ds, and stopped. -/
theorem witness_HandlerItems_requests :
    (let s := handed 10470 [.passage request8] []
     Active s ∧ s.unit.handler.requests = .passage request8 :: []
      ∧ approachRecord s.unit request8.approach = some outboundApproach ∧ outboundApproach.role = .outbound
      ∧ linkRecord s.unit .outbound = some outboundLink ∧ outboundLink.downstream ≠ 0)
      ∧ (handed 0 [.withdraw bus] []).unit.handler.requests = .withdraw bus :: []
      ∧ (running 0).clock.lock ≠ .off ∧ (running 0).clock.beaconStart = some 0 ∧ 20 ≤ age 20 0 ∧ age 19 0 < 20
      ∧ (running 0).loader.inForce.params.beaconInterval = 20 ∧ Bn24.reset.clock.beaconStart = none := by decide +kernel

/-- Frames of vehicles 0 and 65535, from the upstream station and another, addressed here and elsewhere. -/
theorem witness_HandlerItems_frames :
    (let s := handed 200000 [] [.passage frame26]
     Running s ∧ s.unit.handler.frames = .passage frame26 :: [] ∧ frame26.next = s.unit.loader.inForce.station
      ∧ linkRecord s.unit frame26.direction = some outboundLink)
      ∧ ¬ (frame26.key.vehicle = 0 ∨ frame26.key.vehicle = 0xFFFF) ∧ outboundLink.upstream = frame26.sender
      ∧ outboundLink.upstream ≠ 19 ∧ (22 : Nat) ≠ site.station
      ∧ (handed 0 [] [.withdraw 20 bus]).unit.handler.frames = .withdraw 20 bus :: [] := by decide +kernel

/-- A unit in LOADING that still holds a request of each kind, or a frame of each kind, the PASSAGE refused or not. -/
theorem witness_HandlerItems_outsideRunning :
    let waiting := fun (rs : List HandlerRequest) (fs : List ReceivedFrame) =>
      machine { loading .identity with handler := { requests := rs, frames := fs } }
    (∀ r ∈ [HandlerRequest.passage request8, .withdraw bus], ∀ f ∈ [ReceivedFrame.passage frame26, .withdraw 20 bus],
        let s := waiting [r] [f]
        Active s ∧ s.unit.loader.run ≠ .running ∧ s.unit.port.state = .off ∧ s.unit.handler.requests = r :: []
          ∧ s.unit.handler.frames = f :: [])
      ∧ refusedHere (running 0) (.passage { frame26 with key := { bus with vehicle := 0 } }) = true
      ∧ refusedHere (running 0) (.passage frame26) = false := by decide +kernel

/-- 15 and 16 peers, a station among them and one that is not, and the oldest of them; and beacons that move no clock. -/
theorem witness_PeerRecords :
    let peer := fun n : Nat => ({ station := n, last := ds (100 + n), lock := .fine } : Peer)
    let peers := fun n : Nat => (List.range n).map (fun k => peer (k + 1))
    ((peers 16).length ≤ 16 ∧ ((peers 16).map Peer.station).Nodup ∧ (peers 15).length < 16 ∧ (peers 16).length = 16)
      ∧ peer 16 ∈ peers 16 ∧ (∀ p ∈ peers 16, p.station ≠ 17)
      ∧ (peer 2 ∈ peers 16 ∧ (peer 2).station ≠ 1
          ∧ ∀ p ∈ peers 16, p.station ≠ 1 → p ≠ peer 2 → later p.last (peer 2).last = true)
      ∧ (let s := machine (heard 0 (station9 155 .fine 4 3 0 0))
         Active s ∧ s.unit.clock.beacons = { station := 4, time := 0, lock := 5, reference := 0, startMark := 155 } :: []
          ∧ LockState.free.code = 5 ∧ s.unit.clock.lock = .fine ∧ 0 < s.unit.clock.reference ∧ s.unit.clock.reference < 5
          ∧ s.unit.loader.inForce.station ≤ 9)
      ∧ (∀ b ∈ [({ station := 9, time := 0, lock := 3, reference := 8, startMark := 0 } : ReceivedBeacon),
          { station := 5, time := 0, lock := 5, reference := 0, startMark := 0 }], ¬ Inconsistent b)
      ∧ (∀ b ∈ [({ station := 5, time := 0, lock := 0, reference := 0, startMark := 0 } : ReceivedBeacon),
          { station := 5, time := 0, lock := 6, reference := 0, startMark := 0 },
          { station := 5, time := 0, lock := 255, reference := 0, startMark := 0 },
          { station := 5, time := 0, lock := 3, reference := 5, startMark := 0 },
          { station := 5, time := 0, lock := 5, reference := 1, startMark := 0 }], Inconsistent b)
      ∧ (let u := station9 300 .holdover 4 0 0 0
         u.clock.lock = .holdover ∧ age 300 230 ≤ (u.loader.inForce.params.referenceTimeout : Int)) := by decide +kernel

/-- The first beacon of a lower station in ACQUIRING and FREE; one lower than the reference in COARSE and FINE; one in HOLDOVER
with no record below it. -/
theorem witness_LowerStationsAreTakenAsReference :
    let b : ReceivedBeacon := { station := 4, time := 2000317, lock := 5, reference := 0, startMark := 55 }
    (∀ lock ∈ [LockState.acquiring, .free],
        let s := machine (heard 2000317 (station9 55 lock 0 0 0 0))
        Active s ∧ s.unit.clock.beacons = b :: [] ∧ LockState.free.code = b.lock ∧ ¬ Inconsistent b
          ∧ b.station < s.unit.loader.inForce.station ∧ s.unit.clock.lock = lock)
      ∧ (∀ lock ∈ [LockState.coarse, .fine],
          let s := machine (heard 2000317 (station9 55 lock 5 1 1 0))
          s.unit.clock.beacons = b :: [] ∧ s.unit.clock.lock = lock ∧ b.station < s.unit.clock.reference)
      ∧ (let s := machine (heard 2000317 (station9 55 .holdover 5 0 0 0))
         s.unit.clock.lock = .holdover ∧ s.unit.clock.beacons = b :: []
          ∧ ∀ p ∈ recordPeer { station := 4, last := 55, lock := .free } 5 s.unit.clock.peers, ¬ p.station < b.station) := by
  decide +kernel

/-- Errors of 0, 2, 3, 20 and 21 ds either way, in COARSE with fine counts 1 and 2 and in FINE with miss counts 1 and 2. -/
theorem witness_BeaconsFromTheReference :
    (∀ u ∈ [station9 135 .coarse 4 1 0 2000000, station9 135 .coarse 4 2 0 2000000, station9 135 .fine 4 3 1 2000000,
          station9 135 .fine 4 3 2 2000000],
        let s := machine (heard 2000135 u)
        Active s ∧ (∃ b ∈ s.unit.clock.beacons.head?, s.unit.clock.beacons = b :: [] ∧ LockState.free.code = b.lock
            ∧ ¬ Inconsistent b ∧ b.station < s.unit.loader.inForce.station ∧ s.unit.clock.reference = b.station ∧ 0 < b.station
            ∧ timeDiff b.time (b.startMark + s.unit.clock.offset) = 0))
      ∧ (∀ e ∈ [(-21 : Int), -20, -3, -2, 0, 2, 3, 20, 21],
          timeDiff (2000135 + BitVec.ofInt 24 e) ((135 : Time) + 2000000) = e)
      ∧ ((station9 135 .coarse 4 1 0 0).clock.fine = 1 ∧ (station9 135 .coarse 4 2 0 0).clock.fine = 2
          ∧ (station9 135 .fine 4 3 1 0).clock.miss = 1 ∧ (station9 135 .fine 4 3 2 0).clock.miss = 2) := by
  refine ⟨?_, by decide +kernel, by decide +kernel⟩
  intro u hu
  simp only [List.mem_cons, List.not_mem_nil, or_false] at hu
  rcases hu with rfl | rfl | rfl | rfl <;>
    exact ⟨by decide +kernel, { station := 4, time := 2000135, lock := 5, reference := 0, startMark := 135 },
      by decide +kernel⟩

/-- The acquisition wait at 70 and 71 ds, a reference heard 70 and 71 ds ago, the holdover limit at 600 and 601 ds with a lower
record that is stale or live, and states that the timers do not concern. -/
theorem witness_ClockTimersChangeTheLock :
    let held := fun last : Time =>
      let u := station9 847 .holdover 4 0 0 2000271
      machine { u with clock := { u.clock with holdStart := some 246, peers := [{ station := 4, last := last, lock := .free }] } }
    (let s := machine { running 71 with clock := { (running 71).clock with acqStart := some 0 } }
     Active s ∧ PeersOk s.unit ∧ s.unit.clock.lock = .acquiring ∧ s.unit.clock.acqStart = some 0
      ∧ (s.unit.loader.inForce.params.referenceTimeout : Int) < age s.unit.localTime 0
      ∧ age 70 0 ≤ (s.unit.loader.inForce.params.referenceTimeout : Int))
      ∧ (let s := machine (station9 246 .fine 4 3 0 0)
         PeersOk s.unit ∧ s.unit.clock.lock = .fine ∧ (∀ p ∈ s.unit.clock.peers, p.station = s.unit.clock.reference)
          ∧ (70 : Int) < age 246 175 ∧ ¬ (70 : Int) < age 246 176)
      ∧ ((held 175).unit.clock.lock = .holdover ∧ (held 175).unit.clock.holdStart = some 246
          ∧ (600 : Int) < age 847 246 ∧ age 846 246 ≤ 600
          ∧ (∀ p ∈ (held 175).unit.clock.peers, (70 : Int) < age 847 p.last)
          ∧ (∀ p ∈ (held 777).unit.clock.peers, p.station < 9 ∧ ¬ (70 : Int) < age 847 p.last))
      ∧ (running 0).clock.lock ≠ .coarse ∧ (running 0).clock.lock ≠ .fine ∧ (running 0).clock.lock ≠ .holdover
      ∧ (station9 246 .fine 4 3 0 0).clock.lock ≠ .acquiring := by decide +kernel

/-- The unit of section 3.5 with its grant, a peer and a queue of frames, which meets every invariant, and a step from it. -/
def busy : Bn24 :=
  slotted (.active grant) (holding 4 { armedEntry with service := .granted, served := true }
    { station9 10400 .fine 4 3 0 0 with port := { (running 0).port with queue := [withdraw 10390] } })

/-- Its one entry. -/
theorem busy_entries (i : SlotIx) (e : Entry) (h : e ∈ entryIn busy i) :
    i = 4 ∧ e = { armedEntry with service := .granted, served := true } := by
  have hall : ∀ i : SlotIx, ∀ e ∈ entryIn busy i, i = 4 ∧ e = { armedEntry with service := .granted, served := true } := by
    decide +kernel
  exact hall i e h

/-- The invariants hold of a unit with an active grant, and a step from it answers a next state. -/
theorem witness_invariants :
    (RecentOk busy ∧ InboxOk busy ∧ PeersOk busy ∧ QueueOk busy ∧ FlagBitsOk busy ∧ LinkOk busy)
      ∧ FramingOk (.collecting { length := some 1, bytes := [0], lastEnd := 0 })
      ∧ KeysOk busy ∧ GrantInvariant busy ∧ QuietInvariant busy ∧ ClockInvariant busy
      ∧ (stepped [.arbitrationLoss] busy).unit.localTime = 10400 := by
  have held : HeldOk busy := by decide +kernel
  have slot : busy.arbiter.slot = .active grant := by decide +kernel
  have entries : EntriesOk busy := by
    refine ⟨fun i e h => ?_, ?_, ?_⟩
    · obtain ⟨rfl, rfl⟩ := busy_entries i e h
      decide
    · have hnone : busy.table.requests = [] := by decide +kernel
      simp [hnone]
    · have hnone : busy.handler.frames = [] := by decide +kernel
      simp [hnone]
  have arbiter : ArbiterOk busy := by
    refine ⟨?_, fun i e h => ?_, fun _ => ⟨grant, slot⟩⟩
    · rw [slot]
      decide +kernel
    · obtain ⟨rfl, rfl⟩ := busy_entries i e h
      simp only [BelongsOk, slot]
      decide
  have clock : ClockInvariant busy := by
    refine ⟨held, by decide +kernel, by decide +kernel, ?_, ?_, by decide +kernel⟩
    · have hl : busy.clock.lock = .fine := by decide +kernel
      rw [hl]
      change 0 < busy.clock.reference ∧ busy.clock.reference < busy.loader.inForce.station
      decide +kernel
    · have hs : busy.clock.saved = none := by decide +kernel
      simp [hs]
  exact ⟨by decide +kernel, by decide, by decide +kernel, ⟨held, entries, arbiter⟩, by decide +kernel, clock, by decide +kernel⟩

/-- Commands that the last three statements take: one that counts, one after a set flag, and a CHECK-IN beside an entry that is
not WAITING. -/
theorem witness_writers :
    counterOf .detBad (after (.detLengthDrop 17) (after .detStartByte (running 0))) = 1
      ∧ flagSet .loadFault (after .loadFault (loading .addressing)) = true
      ∧ entryIn (after .checkIn (taking (checkIn3 other) busy)) 0 ≠ none
      ∧ (∀ e ∈ entryIn busy 4, e.service ≠ .waiting ∧ e.key ≠ other) ∧ entryIn busy 4 ≠ none
      ∧ TakesDetection (machine (taking (checkIn3 other) busy)) (checkIn3 other) [] []
      ∧ (∀ f ∈ entryIn (after .checkIn (taking (checkIn3 other) busy)) 4, f.key = bus) := by decide +kernel

end Sys2Proof.Tests
end

section
/-! The grade (section 2.7): the term of each step of gradeOf and its bound, and the statement O18. -/

namespace Sys2Proof.Machine

/-- Clamping the lateness to at most 600 s in either direction (R48). -/
theorem clampLateness_eq (l : Int) : clampLateness l = max (-600) (min 600 l) :=
  clampInt_eq (-600) 600 l (by decide)

/-- One for each full 30 s of lateness, up to 300 s (R50). -/
theorem lateTerm_eq (l : Int) : lateTerm l = (min 300 (max 0 l)).toNat / 30 := by
  have hclamp : clampInt 0 300 l = min 300 (max 0 l) := by
    rw [clampInt_eq 0 300 l (by decide), max_min_distrib_left, max_eq_right (by decide : (0 : Int) ≤ 300)]
  rw [lateTerm, hclamp]

/-- The base grade is at most 15 (R50). -/
theorem baseGrade_le (weight : Nat) (l : Int) : baseGrade weight l ≤ 15 := Nat.min_le_left _ _

/-- Damping never raises a grade (R51): its lower bound of 1 stands only where the grade is 1 or more. -/
theorem damped_le (limit chain g : Nat) : damped limit chain g ≤ g := by
  unfold damped
  split
  next h =>
    obtain ⟨_, _, hpos⟩ := h
    exact max_le hpos (Nat.sub_le g 4)
  next => exact le_rfl

/-- The grade from the bounded lateness (R48): 0 ahead of the threshold (R49), else the damped base grade (R50, R51). -/
theorem gradeOf_eq (u : Bn24) (cls : Fin 4) (lateness : Int) (chain : Nat) :
    gradeOf u cls lateness chain =
      if clampLateness lateness < -((paramsOf u).ahead : Int) then 0
      else damped (paramsOf u).chainLimit chain (baseGrade u.loader.inForce.weights[cls] (clampLateness lateness)) := rfl

/-- A grade is at most 15: 0 ahead of the threshold, else a base grade that damping does not raise. -/
theorem gradeOf_le (u : Bn24) (cls : Fin 4) (lateness : Int) (chain : Nat) : gradeOf u cls lateness chain ≤ 15 := by
  rw [gradeOf_eq]
  split
  next => exact Nat.zero_le 15
  next => exact (damped_le _ _ _).trans (baseGrade_le _ _)

/-- Settles O18: the clamps of R48 and R50 in the statement's terms give the value, `gradeOf_le` the bound. -/
theorem gradesFollowClassLatenessAndChain : Obligations.GradesFollowClassLatenessAndChain := by
  unfold Obligations.GradesFollowClassLatenessAndChain
  intro u cls lateness chain late base limit
  refine ⟨?_, gradeOf_le u cls lateness chain⟩
  have hlate : clampLateness lateness = late := clampLateness_eq lateness
  have hbase : baseGrade u.loader.inForce.weights[cls] late = base := by rw [baseGrade, lateTerm_eq]
  rw [gradeOf_eq, hlate, hbase]
  rfl

end Sys2Proof.Machine
end

section
/-! Replies of the controller (section 4.3): what a whole ACCEPT or DECLINE leaves in the port before the arbiter takes it, the
replies that end no standing offer (R84, R87), and the statement O35. -/

namespace Sys2Proof.Machine

/-! ### Reception of a reply -/

/-- A checked ACCEPT of an id other than 0 is delivered (R97). -/
theorem parseController_accept {id check : Byte} (hid : id ≠ 0) (hsum : SumsToZero [0x42, id] check) :
    parseController [0x42, id] check = some (.accept id) := by
  have hok : sumOk [0x42, id] check = true := (sumOk_iff _ _).mpr hsum
  simpa [parseController, byteAt] using And.intro hok hid

/-- A checked DECLINE of an id other than 0 is delivered (R97). -/
theorem parseController_decline {id check : Byte} (hid : id ≠ 0) (hsum : SumsToZero [0x43, id] check) :
    parseController [0x43, id] check = some (.decline id) := by
  have hok : sumOk [0x43, id] check = true := (sumOk_iff _ _).mpr hsum
  simpa [parseController, byteAt] using And.intro hok hid

/-- The unit as a valid controller message leaves it before its delivery: the receiver hunts again, the silence timer restarts,
and a silence ends with the evaluations of R58 (R97, R101). -/
def heardUnit (u : Bn24) : Bn24 :=
  { u with
    controller.framing := .hunting, controller.silent := false, controller.silenceStart := some u.localTime
    table.requests := u.table.requests
      ++ (if u.controller.silent = true then evaluationsOf (fun _ => true) u else []) }

/-- In RUNNING the end of a silence requests the evaluation of every WAITING or ARMED entry (R101, R58). -/
theorem endSilence_eq (u : Bn24) (hrun : u.loader.run = .running) :
    endSilence u =
      { u with controller.silent := false
               table.requests := u.table.requests ++ evaluationsOf (fun _ => true) u } := by
  have hrunning : isRunning { u with controller.silent := false } = true := (isRunning_iff _).mpr hrun
  rw [endSilence, sendTable, if_pos hrunning]
  rfl

/-- In RUNNING the port's two updates come to `heardUnit`, in a silence and out of one. -/
theorem heardController_setLinkFraming (u : Bn24) (hrun : u.loader.run = .running) :
    heardController (setLinkFraming .hunting u) = heardUnit u := by
  cases hsilent : u.controller.silent with
  | false => simp [heardController, setLinkFraming, restartSilence, heardUnit, hsilent]
  | true =>
    have hend := endSilence_eq (restartSilence (setLinkFraming .hunting u)) hrun
    rw [heardController, setLinkFraming_controller_silent, if_pos hsilent, hend, heardUnit, if_pos hsilent]
    rfl

/-- Out of a silence a valid message moves the receiver and the silence timer alone. -/
theorem heardUnit_of_not_silent (u : Bn24) (h : u.controller.silent = false) :
    heardUnit u = { u with controller.framing := .hunting, controller.silenceStart := some u.localTime } := by
  simp [heardUnit, h]

/-- CONTROLLER_MESSAGE_RECEIVED in RUNNING, of a message whole that passes its checks (R97). -/
theorem exec_controllerMessage_valid {s : State} {payload : List Byte} {check : Byte} {m : ControllerMessage}
    (hs : Running s) (hm : parseController payload check = some m) :
    exec (.controllerMessageReceived payload check) s =
      .next { s with unit := deliverController m (heardUnit s.unit) } := by
  obtain ⟨hactive, hrun⟩ := hs
  change execControllerMessageReceived payload (some check) s = _
  rw [execControllerMessageReceived, unlessReset_active _ _ hactive]
  simp [isRunning, hrun, receiveController, hm, heardController_setLinkFraming]

/-! ### Replies by the slot state -/

/-- An ACCEPT while FREE is late (R87). -/
theorem takeAccept_free {u : Bn24} (id : Byte) (h : u.arbiter.slot = .free) : takeAccept id u = lateAccept id u := by
  simp [takeAccept, h]

/-- An ACCEPT of another id than the offer's is late (R87). -/
theorem takeAccept_offered_other {u : Bn24} {o : Offer} {id : Byte} (h : u.arbiter.slot = .offered o) (hid : o.id ≠ id) :
    takeAccept id u = lateAccept id u := by
  simp [takeAccept, h, hid]

/-- An ACCEPT of another id than the grant's is late (R87). -/
theorem takeAccept_active_other {u : Bn24} {g : Grant} {id : Byte} (h : u.arbiter.slot = .active g) (hid : g.id ≠ id) :
    takeAccept id u = lateAccept id u := by
  simp [takeAccept, h, hid]

/-- An ACCEPT of the grant's own id is ignored (R87). -/
theorem takeAccept_active_same {u : Bn24} {g : Grant} (h : u.arbiter.slot = .active g) : takeAccept g.id u = u := by
  simp [takeAccept, h]

/-- The ACCEPT of an abandoned offer (R84). -/
theorem takeAccept_abandoned {u : Bn24} {o : Offer} (h : u.arbiter.slot = .offered o) (he : o.entry = none) :
    takeAccept o.id u = acceptAbandoned o u := by
  simp [takeAccept, h, acceptOffer, he]

/-- A DECLINE while FREE is ignored (R87). -/
theorem takeDecline_free {u : Bn24} (id : Byte) (h : u.arbiter.slot = .free) : takeDecline id u = u := by
  simp [takeDecline, h]

/-- A DECLINE of another id than the offer's is ignored (R87). -/
theorem takeDecline_offered_other {u : Bn24} {o : Offer} {id : Byte} (h : u.arbiter.slot = .offered o) (hid : o.id ≠ id) :
    takeDecline id u = u := by
  simp [takeDecline, h, hid]

/-- A DECLINE while ACTIVE is ignored, whatever its id (R87). -/
theorem takeDecline_active {u : Bn24} {g : Grant} (id : Byte) (h : u.arbiter.slot = .active g) : takeDecline id u = u := by
  simp [takeDecline, h]

/-- A message handed over changes nothing beside the transmitter, whose contents are here left out. -/
theorem handLink_beside_transmitter (m : LinkMessage) (u : Bn24) :
    { handLink m u with controller.sending := none, controller.waiting := [] }
      = { u with controller.sending := none, controller.waiting := [] } := by
  rw [handLink_frame]

/-- What the ACCEPT of an abandoned offer does before the selection that follows: CALLS_ACCEPTED is counted, the CLEAR handed
over and the slot freed, and nothing else changes (R84). -/
theorem acceptAbandoned_effect (o : Offer) (u : Bn24) (hqueue : u.controller.sending = none → u.controller.waiting = []) :
    ∃ t : Bn24, acceptAbandoned o u = selection t
      ∧ t.arbiter = { u.arbiter with slot := .free } ∧ t.table = u.table
      ∧ linkMessages t = linkMessages u ++ [.clear o.id]
      ∧ t.maint = (count .callsAccepted u).maint
      ∧ { t with arbiter := u.arbiter, maint := u.maint, controller.sending := none, controller.waiting := [] }
          = { u with controller.sending := none, controller.waiting := [] } := by
  have hmessages := linkMessages_handLink (.clear o.id) (count .callsAccepted u) hqueue
  refine ⟨setGrant .free (handLink (.clear o.id) (count .callsAccepted u)), rfl, ?_, ?_, hmessages, ?_, ?_⟩
  all_goals
    rw [handLink_frame]
    rfl

/-! ### The statement -/

/-- Settles O35: `exec_controllerMessage_valid` reduces each clause to the delivery to the arbiter, which the slot state decides;
the CLEARs are hand-overs to the link (`linkMessages_handLink`). -/
theorem repliesToNoStandingOffer : Obligations.RepliesToNoStandingOffer := by
  unfold Obligations.RepliesToNoStandingOffer
  refine ⟨?abandoned, ?others⟩
  case abandoned =>
    intro s o check hs hsilent hslot hentry hid hsum hlink
    obtain ⟨_, hqueue⟩ := hlink
    have hdeliver : takeAccept o.id (heardUnit s.unit) = acceptAbandoned o (heardUnit s.unit) :=
      takeAccept_abandoned hslot hentry
    have hexec := exec_controllerMessage_valid hs (parseController_accept hid hsum)
    rw [deliverController, hdeliver, heardUnit_of_not_silent s.unit hsilent] at hexec
    obtain ⟨t, hselection, heffect⟩ := acceptAbandoned_effect o
      { s.unit with controller.framing := .hunting, controller.silenceStart := some s.unit.localTime } hqueue
    exact ⟨t, hselection ▸ hexec, heffect⟩
  case others =>
    intro s id check hs hid hlink heard late ignored
    obtain ⟨_, hqueue⟩ := hlink
    have late_of : takeAccept id (heardUnit s.unit) = lateAccept id (heardUnit s.unit) → late := by
      intro hlate hsum
      refine ⟨handLink (.clear id) (heardUnit s.unit), ?_, ?_, ?_⟩
      · rw [exec_controllerMessage_valid hs (parseController_accept hid hsum), deliverController, hlate, lateAccept]
      · exact linkMessages_handLink (.clear id) (heardUnit s.unit) hqueue
      · exact handLink_beside_transmitter (.clear id) (heardUnit s.unit)
    have ignored_of : takeDecline id (heardUnit s.unit) = heardUnit s.unit → ignored := by
      intro hignored hsum
      rw [exec_controllerMessage_valid hs (parseController_decline hid hsum), deliverController, hignored]
      rfl
    refine ⟨fun hfree => ?_, fun o hoffer hother => ?_, fun g hgrant => ⟨?_, fun hother => ?_, fun hsame hsum => ?_⟩⟩
    · exact ⟨late_of (takeAccept_free id hfree), ignored_of (takeDecline_free id hfree)⟩
    · exact ⟨late_of (takeAccept_offered_other hoffer hother), ignored_of (takeDecline_offered_other hoffer hother)⟩
    · exact ignored_of (takeDecline_active id hgrant)
    · exact late_of (takeAccept_active_other hgrant hother)
    · subst hsame
      have hignored : takeAccept g.id (heardUnit s.unit) = heardUnit s.unit := takeAccept_active_same hgrant
      rw [exec_controllerMessage_valid hs (parseController_accept hid hsum), deliverController, hignored]
      rfl

end Sys2Proof.Machine
end

section
/-! Beacons from the reference (section 8.3): the recording of a consistent beacon, what COARSE and FINE do by the size of the
error (R169, R170), and the statement O51. -/

namespace Sys2Proof.Machine

/-! ### Recording -/

/-- A lock state's code names it. -/
theorem lockOf_code (st : LockState) : lockOf st.code = some st := by cases st <;> rfl

/-- The lock state of a beacon that is not inconsistent is the one its code names (R162). -/
theorem consistentLock_of_not_inconsistent {b : ReceivedBeacon} {st : LockState} (hcode : st.code = b.lock)
    (hb : ¬ Inconsistent b) : consistentLock b = some st := by
  have hlock : lockOf b.lock = some st := hcode ▸ lockOf_code st
  simp only [Inconsistent, ← hcode, not_or, not_and, not_lt] at hb
  obtain ⟨hnotOff, -, hrange, hnone, hlower⟩ := hb
  rw [consistentLock, if_neg (not_lt.mpr hrange), hlock]
  cases st with
  | off => exact absurd rfl hnotOff
  | acquiring => simpa using hnone (.inl rfl)
  | free => simpa using hnone (.inr rfl)
  | coarse => simpa [Nat.pos_iff_ne_zero] using hlower (.inl rfl)
  | fine => simpa [Nat.pos_iff_ne_zero] using hlower (.inr (.inl rfl))
  | holdover => simpa [Nat.pos_iff_ne_zero] using hlower (.inr (.inr rfl))

/-- The unit with the beacon at the front taken out and recorded, before it is applied (R162). -/
def recordedUnit (b : ReceivedBeacon) (rest : List ReceivedBeacon) (st : LockState) (u : Bn24) : Bn24 :=
  { u with
    clock.beacons := rest
    clock.peers := recordPeer { station := b.station, last := b.startMark, lock := st } u.clock.reference u.clock.peers }

/-- BEACON_RECEIVED of a consistent beacon from a station lower than the unit's own: recorded, then applied (R162). -/
theorem exec_beaconReceived_lower {s : State} {b : ReceivedBeacon} {rest : List ReceivedBeacon} {st : LockState}
    (hactive : Active s) (hfront : s.unit.clock.beacons = b :: rest) (hoff : s.unit.clock.lock ≠ .off)
    (hcons : consistentLock b = some st) (hown : b.station < s.unit.loader.inForce.station) :
    exec .beaconReceived s =
      .next { s with unit := applyLowerBeacon b.station (beaconError (recordedUnit b rest st s.unit) b)
                               (recordedUnit b rest st s.unit) } := by
  change execBeaconReceived s = _
  rw [execBeaconReceived, unlessReset_active _ _ hactive]
  have hhandle : handleBeacon b (setClock (fun c => { c with beacons := rest }) s.unit)
      = applyLowerBeacon b.station (beaconError (recordedUnit b rest st s.unit) b) (recordedUnit b rest st s.unit) := by
    rw [handleBeacon, setClock_clock, if_neg hoff, hcons]
    exact if_pos hown
  rw [hfront]
  exact congrArg (fun v => Host.Outcome.next { s with unit := v }) hhandle

/-- The reference's own beacon is no change of reference (R168). -/
theorem takesOver_reference {u : Bn24} {station : Nat} (href : u.clock.reference = station) (hpos : 0 < station) :
    takesOver u station = false := by
  simp [takesOver, href, hpos.ne']

/-- In COARSE a beacon from the reference is followed (R169). -/
theorem applyLowerBeacon_coarse {u : Bn24} {station : Nat} (e : Int) (hlock : u.clock.lock = .coarse)
    (href : u.clock.reference = station) (hpos : 0 < station) : applyLowerBeacon station e u = followCoarse e u := by
  simp [applyLowerBeacon, hlock, takesOver_reference href hpos, href]

/-- In FINE a beacon from the reference is followed (R170). -/
theorem applyLowerBeacon_fine {u : Bn24} {station : Nat} (e : Int) (hlock : u.clock.lock = .fine)
    (href : u.clock.reference = station) (hpos : 0 < station) : applyLowerBeacon station e u = followFine e u := by
  simp [applyLowerBeacon, hlock, takesOver_reference href hpos, href]

/-! ### Corrections and events -/

/-- The full correction puts corridor time at the start mark on the beacon's time (R166). -/
theorem moveOffset_beaconError (u : Bn24) (b : ReceivedBeacon) :
    moveOffset (beaconError u b) u.clock = { u.clock with offset := b.time - b.startMark } := by
  have herror : u.clock.offset + BitVec.ofInt 24 (beaconError u b) = b.time - b.startMark := by
    rw [beaconError, timeDiff, BitVec.ofInt_toInt]
    ring
  rw [moveOffset, herror]

/-- The offset after a slew of at most 1 ds to the side of an error (R166). -/
def slewedOffset (e : Int) (offset : Time) : Time := if 0 < e then offset + 1 else if e < 0 then offset - 1 else offset

/-- A slew moves the offset alone (R166). -/
theorem moveOffset_slewOf (e : Int) (c : TimeUnit) :
    moveOffset (slewOf e) c = { c with offset := slewedOffset e c.offset } := by
  unfold moveOffset slewOf slewedOffset
  split
  next => rfl
  next =>
    split
    next => rw [BitVec.sub_eq_add_neg]; rfl
    next => simp

/-- The maintenance block after a change of lock state that raises LOCK_EVENT in mode 3 and one other mode (R176). -/
def lockEventMaint (other : Nat) (u : Bn24) : Maintenance :=
  if u.loader.inForce.params.lockEventMode = other ∨ u.loader.inForce.params.lockEventMode = 3
  then (flag .lockEvent u).maint else u.maint

/-- The LOCK_EVENT of entering FINE changes the maintenance block alone (R176). -/
theorem enteredFine_eq (u : Bn24) : enteredFine u = { u with maint := lockEventMaint 1 u } := by
  unfold enteredFine lockEventMaint paramsOf
  split <;> rfl

/-- The LOCK_EVENT of leaving FINE changes the maintenance block alone (R176). -/
theorem leftFine_eq (u : Bn24) : leftFine u = { u with maint := lockEventMaint 2 u } := by
  unfold leftFine lockEventMaint paramsOf
  split <;> rfl

/-- An error within the window of FINE is within the window of COARSE. -/
theorem not_coarseWindow_lt {e : Int} (h : e.natAbs ≤ 2) : ¬ Config.coarseWindow < e.natAbs :=
  not_lt.mpr (h.trans (by decide))

/-! ### COARSE by the size of the error (R169) -/

section
variable {u : Bn24} {b : ReceivedBeacon}

/-- Above 20: a counted step, and the count of fine errors starts again. -/
theorem followCoarse_step (hlock : u.clock.lock = .coarse) (h : 20 < (beaconError u b).natAbs) :
    followCoarse (beaconError u b) u =
      { u with clock := { u.clock with offset := b.time - b.startMark, fine := 0, lock := .coarse }
               maint := (count .timeSteps u).maint } := by
  have hbig : Config.coarseWindow < (beaconError u b).natAbs := h
  rw [followCoarse, if_pos hbig, stepOffset, setClock, setClock, count_clock, moveOffset_beaconError, ← hlock]
  rfl

/-- Above 2, up to 20: the full correction, and the count of fine errors starts again. -/
theorem followCoarse_correct (hlock : u.clock.lock = .coarse) (h : 2 < (beaconError u b).natAbs)
    (h' : (beaconError u b).natAbs ≤ 20) :
    followCoarse (beaconError u b) u =
      { u with clock := { u.clock with offset := b.time - b.startMark, fine := 0, lock := .coarse } } := by
  have hcoarse : ¬ Config.coarseWindow < (beaconError u b).natAbs := not_lt.mpr h'
  have hfine : Config.fineWindow < (beaconError u b).natAbs := h
  rw [followCoarse, if_neg hcoarse, if_pos hfine, setClock, moveOffset_beaconError, ← hlock]

/-- Up to 2, not the third in a row: the full correction and one more. -/
theorem followCoarse_count (hlock : u.clock.lock = .coarse) (h : (beaconError u b).natAbs ≤ 2) (hcount : u.clock.fine < 2) :
    followCoarse (beaconError u b) u =
      { u with clock := { u.clock with offset := b.time - b.startMark, fine := u.clock.fine + 1, lock := .coarse } } := by
  have hfine : ¬ Config.fineWindow < (beaconError u b).natAbs := not_lt.mpr h
  rw [followCoarse, if_neg (not_coarseWindow_lt h), if_neg hfine, if_pos hcount, setClock, moveOffset_beaconError, ← hlock]

/-- Up to 2, the third in a row: the full correction, and the unit enters FINE. -/
theorem followCoarse_enter (h : (beaconError u b).natAbs ≤ 2) (hcount : u.clock.fine = 2) :
    followCoarse (beaconError u b) u =
      { u with clock := { u.clock with offset := b.time - b.startMark, fine := 3, miss := 0, lock := .fine }
               maint := lockEventMaint 1 u } := by
  have hfine : ¬ Config.fineWindow < (beaconError u b).natAbs := not_lt.mpr h
  rw [followCoarse, if_neg (not_coarseWindow_lt h), if_neg hfine, if_neg (by omega), enteredFine_eq, setClock,
    moveOffset_beaconError]
  rfl

/-! ### FINE by the size of the error (R170) -/

/-- Up to 2: a slew, and the count of misses starts again. -/
theorem followFine_slew {e : Int} (hlock : u.clock.lock = .fine) (h : e.natAbs ≤ 2) :
    followFine e u =
      { u with clock := { u.clock with offset := slewedOffset e u.clock.offset, miss := 0, lock := .fine } } := by
  have hfine : e.natAbs ≤ Config.fineWindow := h
  rw [followFine, if_neg (not_coarseWindow_lt h), if_pos hfine, setClock, moveOffset_slewOf, ← hlock]

/-- Above 2, up to 20, not the third in a row: a slew and one more miss. -/
theorem followFine_miss {e : Int} (hlock : u.clock.lock = .fine) (h : 2 < e.natAbs) (h' : e.natAbs ≤ 20)
    (hcount : u.clock.miss < 2) :
    followFine e u =
      { u with clock := { u.clock with offset := slewedOffset e u.clock.offset, miss := u.clock.miss + 1, lock := .fine } } := by
  have hcoarse : ¬ Config.coarseWindow < e.natAbs := not_lt.mpr h'
  have hfine : ¬ e.natAbs ≤ Config.fineWindow := not_le.mpr h
  rw [followFine, if_neg hcoarse, if_neg hfine, if_pos hcount, setClock, moveOffset_slewOf, ← hlock]

/-- Above 2, up to 20, the third in a row: a slew, and the unit drops to COARSE. -/
theorem followFine_drop {e : Int} (h : 2 < e.natAbs) (h' : e.natAbs ≤ 20) (hcount : u.clock.miss = 2) :
    followFine e u =
      { u with clock := { u.clock with offset := slewedOffset e u.clock.offset, fine := 0, miss := 3, lock := .coarse }
               maint := lockEventMaint 2 u } := by
  have hcoarse : ¬ Config.coarseWindow < e.natAbs := not_lt.mpr h'
  have hfine : ¬ e.natAbs ≤ Config.fineWindow := not_le.mpr h
  rw [followFine, if_neg hcoarse, if_neg hfine, if_neg (by omega), leftFine_eq, setClock, moveOffset_slewOf]
  rfl

/-- Above 20: a counted step to COARSE, the count of misses unchanged. -/
theorem followFine_step (h : 20 < (beaconError u b).natAbs) :
    followFine (beaconError u b) u =
      { u with clock := { u.clock with offset := b.time - b.startMark, fine := 0, lock := .coarse }
               maint := lockEventMaint 2 (count .timeSteps u) } := by
  have hbig : Config.coarseWindow < (beaconError u b).natAbs := h
  rw [followFine, if_pos hbig, leftFine_eq, stepOffset, setClock, setClock, count_clock, moveOffset_beaconError]
  rfl

end

/-! ### The statement -/

/-- Settles O51: the recorded beacon reaches `followCoarse` or `followFine` (R162, R168), whose branch the size of the error and
the count in a row decide; each branch's whole effect is a lemma above. -/
theorem beaconsFromTheReference : Obligations.BeaconsFromTheReference := by
  unfold Obligations.BeaconsFromTheReference
  refine ⟨?coarse, ?fine⟩
  case coarse =>
    intro s b rest st hactive hfront hcode hb hown hlock href hpos
    let u := recordedUnit b rest st s.unit
    have hnotOff : s.unit.clock.lock ≠ .off := by simp [hlock]
    have hreceived := exec_beaconReceived_lower hactive hfront hnotOff (consistentLock_of_not_inconsistent hcode hb) hown
    have heffect : ∀ v, followCoarse (beaconError u b) u = v → exec .beaconReceived s = .next { s with unit := v } := by
      intro v hv
      rw [hreceived, ← hv, applyLowerBeacon_coarse (u := u) _ hlock href hpos]
    refine ⟨fun hbig => ?_, fun hmore hwithin => ?_, fun hsmall hcount => ?_, fun hsmall hcount => ?_⟩
    · exact heffect _ (followCoarse_step hlock hbig)
    · exact heffect _ (followCoarse_correct hlock hmore hwithin)
    · have hfew : s.unit.clock.fine < 2 := by omega
      exact heffect _ (followCoarse_count hlock hsmall hfew)
    · exact heffect _ (followCoarse_enter hsmall hcount)
  case fine =>
    intro s b rest st hactive hfront hcode hb hown hlock href hpos
    let u := recordedUnit b rest st s.unit
    have hnotOff : s.unit.clock.lock ≠ .off := by simp [hlock]
    have hreceived := exec_beaconReceived_lower hactive hfront hnotOff (consistentLock_of_not_inconsistent hcode hb) hown
    have heffect : ∀ v, followFine (beaconError u b) u = v → exec .beaconReceived s = .next { s with unit := v } := by
      intro v hv
      rw [hreceived, ← hv, applyLowerBeacon_fine (u := u) _ hlock href hpos]
    refine ⟨fun hsmall => ?_, fun hmore hwithin hcount => ?_, fun hmore hwithin hcount => ?_, fun hbig => ?_⟩
    · exact heffect _ (followFine_slew hlock hsmall)
    · have hfew : s.unit.clock.miss < 2 := by omega
      exact heffect _ (followFine_miss hlock hmore hwithin hfew)
    · exact heffect _ (followFine_drop hmore hwithin hcount)
    · exact heffect _ (followFine_step hbig)

end Sys2Proof.Machine
end

section
/-! The check of a frame (section 11.3): the order of the bits on the line, the check register bit by bit, the bits that an attempt
drives, the check among the tests of R127, and the statement O45. -/

namespace Sys2Proof.Machine

/-! ### The bits in the order sent -/

/-- A word goes out from its bit of the highest number to its bit 0 (R202). -/
theorem bitsOf_eq_map_getLsbD (w : Nat) (x : BitVec w) :
    bitsOf w x = (List.range w).map (fun n => x.getLsbD (w - 1 - n)) := by
  refine List.map_congr_left fun n hn => ?_
  have hlt : n < w := List.mem_range.mp hn
  simp [BitVec.getMsbD_eq_getLsbD, hlt]

/-- Header bits, then the payload bits byte by byte, each part from its highest bit (R206). -/
theorem frameBits_eq (header : Half) (payload : List Byte) :
    frameBits header payload =
      (List.range 16).map (fun n => header.getLsbD (15 - n))
        ++ payload.flatMap (fun b => (List.range 8).map (fun n => b.getLsbD (7 - n))) := by
  have hbyte : bitsOf 8 = fun b => (List.range 8).map (fun n => b.getLsbD (7 - n)) :=
    funext (bitsOf_eq_map_getLsbD 8)
  rw [frameBits, bitsOf_eq_map_getLsbD, hbyte]

/-- A port that drives the line drives the frame under attempt and then its check (R119, R121). -/
theorem drivenBits_of_attempt {u : Bn24} {a : Attempt} (hdrives : u.port.state = .contend ∨ u.port.state = .send)
    (hattempt : u.port.attempt = some a) : drivenBits u = some (frameBits a.header a.payload ++ bitsOf 16 a.check) := by
  have hline : drivesLine u.port.state = true := by
    rcases hdrives with h | h <;> rw [h] <;> rfl
  rw [drivenBits, hline, hattempt]

/-! ### The check register -/

/-- Before the first bit the register holds all ones (R206). -/
@[simp] theorem crcBits_nil : crcBits [] = 0xFFFF := rfl

/-- One more bit is one more step of the register (R206). -/
theorem crcBits_append_singleton (bits : List Bool) (b : Bool) : crcBits (bits ++ [b]) = crcStep (crcBits bits) b :=
  List.foldl_concat ..

/-- The nine bytes of the manual's test of an implementation (R206). -/
theorem crcBits_testBytes :
    crcBits (([0x31, 0x32, 0x33, 0x34, 0x35, 0x36, 0x37, 0x38, 0x39] : List Byte).flatMap (bitsOf 8)) = 0x29B1 := by
  decide +kernel

/-! ### The check among the tests of a received frame -/

/-- The tests of R127: the header's length and kind, the payload's length, the check, and a sender from 1 to 60. -/
theorem frameValid_iff (header : Half) (payload : List Byte) (check : Half) :
    frameValid header payload check = true ↔
      badHeader header = false ∧ payload.length = headerLength header ∧ frameCheck header payload = check
        ∧ 1 ≤ headerSender header ∧ headerSender header ≤ 60 := by
  simp [frameValid, and_assoc]

/-- A frame is valid exactly when the check received is the one formed here and, with that check, the other tests pass. -/
theorem frameValid_iff_check (header check : Half) (payload : List Byte) :
    frameValid header payload check = true ↔
      frameCheck header payload = check ∧ frameValid header payload (frameCheck header payload) = true := by
  constructor
  · intro hvalid
    obtain ⟨_, _, hcheck, _⟩ := (frameValid_iff header payload check).mp hvalid
    exact ⟨hcheck, hcheck.symm ▸ hvalid⟩
  · rintro ⟨rfl, hvalid⟩
    exact hvalid

/-! ### The statement -/

/-- Settles O45: the fold of `crcBits` by its two equations, the bit order by `bitsOf_eq_map_getLsbD`, sending by
`drivenBits_of_attempt` and the stamping in `attemptOf`, reception by `frameValid_iff_check`. -/
theorem frameCheckIsTheCyclicRedundancyCheck : Obligations.FrameCheckIsTheCyclicRedundancyCheck := by
  unfold Obligations.FrameCheckIsTheCyclicRedundancyCheck
  refine ⟨crcBits_nil, ?step, ?order, ?sent, ?stamped, ?received, crcBits_testBytes⟩
  case step =>
    intro bits b
    rw [crcBits_append_singleton, crcStep, Bool.bne_eq_xor]
  case order =>
    intro header payload
    rw [frameCheck, frameBits_eq]
  case sent =>
    intro u a hdrives hattempt
    rw [drivenBits_of_attempt hdrives hattempt, bitsOf_eq_map_getLsbD 16 a.check]
  case stamped => exact fun u f => ⟨rfl, rfl⟩
  case received => exact fun header check payload => frameValid_iff_check header check payload

end Sys2Proof.Machine
end

section
/-! What a command can write (the block overview of section 2): the elementary writes of the state, each with what every command
that makes it knows of it, and one lemma for each operation of the model that says the operation is made of them. The statements on
whole steps follow from the writes alone. -/

namespace Sys2Proof.Machine

/-! ### The elementary writes -/

/-- Slot by slot, an entry stays an entry with the same forecast fields, and an empty slot stays empty (R4). -/
abbrev SameForecasts (u v : Bn24) : Prop := ∀ i : SlotIx, Option.Rel SameForecast (entryIn u i) (entryIn v i)

/-- The ends of a load that put a configuration in force (R187, R190). -/
def EndsLoad (c : Instr) : Prop := (∃ m n, c = .tableMarkRead m n) ∨ ∃ t b, c = .tableRecordRead t b

/-- The commands that take entries out of the table (R8 to R11, R18, R21, R24 to R28). -/
def EmptiesSlots (c : Instr) : Prop :=
  c = .checkIn ∨ c = .checkOut ∨ c = .cancel ∨ c = .forecastRequest ∨ c = .invalidationRequest
    ∨ (∃ i, c = .entryExpiry i) ∨ (∃ i, c = .untimedExpiry i) ∨ ∃ n, c = .reload n

/-- The commands that write the phase view (R98, R102). -/
def WritesPhase (c : Instr) : Prop := (∃ p k, c = .controllerMessageReceived p k) ∨ c = .linkStartByte ∨ ∃ n, c = .reload n

/-- The commands that write the Configuration Loader's state (R182 to R187, R192). -/
def writesLoader : Instr → Bool
  | .resetRelease _ _ | .loadFault | .esclHoldTimeout | .imageMarkRead _ | .identityBlockRead _ _ _ _ | .parameterBlockRead _ _
  | .tableMarkRead _ _ | .tableRecordRead _ _ | .reload _ => true
  | _ => false

/-- The commands that write the Corridor Time Unit's state (chapter 8): the delivery of a BEACON, the unit's own commands, and the
commands of a load and of RELOAD. -/
def writesClock : Instr → Bool
  | .frameReceived _ _ _ | .beaconReceived | .beaconTimer | .acquisitionWaitEnd | .referenceStale | .holdoverLimit
  | .lowerRecordStale | .tableMarkRead _ _ | .tableRecordRead _ _ | .reload _ => true
  | _ => false

/-- The commands that write entries, the grant slot or the join requests (R4). -/
def writesEntries : Instr → Bool
  | .checkIn | .checkOut | .cancel | .forecastRequest | .invalidationRequest | .evaluation | .silenceRequest | .entryExpiry _
  | .untimedExpiry _ | .joinRequest | .replyWaitExpiry | .grantDeadline | .controllerMessageReceived _ _ | .linkStartByte
  | .controllerSilence | .reload _ => true
  | _ => false

/-- The commands in which the handler may send a forecast request: PASSAGE_RECEIVED, and the end of a load, which settles what
waits for the handler (R151, R158). -/
def SettlesFrames (c : Instr) : Prop := c = .passageReceived ∨ EndsLoad c

/-- One elementary write of a command `c`, in which the forecast fields of the keys `K` may be written. -/
inductive Write (c : Instr) (K : Key → Prop) : Bn24 → Bn24 → Prop where
  | count (k : Counter) (u : Bn24) : Write c K u (count k u)
  | flag (f : Flag) (u : Bn24) : Write c K u (flag f u)
  | maint (m : Maintenance) (u : Bn24) (hcounters : m.counters = u.maint.counters) (hflags : m.flags = u.maint.flags) :
      Write c K u { u with maint := m }
  | clearCounters (m : Maintenance) (u : Bn24) (hc : c = .clearCounters) (hflags : m.flags = u.maint.flags) :
      Write c K u { u with maint := m }
  | clearFlags (m : Maintenance) (u : Bn24) (b : Byte) (mask : Half) (hc : c = .clearFlags b)
      (hcounters : m.counters = u.maint.counters) (hflags : m.flags = u.maint.flags &&& mask) :
      Write c K u { u with maint := m }
  | release (u : Bn24) : Write c K u { u with resetHeld := false }
  | serve (slots : Vector (Option Entry) 24) (u : Bn24) (hw : writesEntries c = true)
      (h : SameForecasts u { u with table.slots := slots }) :
      Write c K u { u with table.slots := slots }
  | rewrite (i : SlotIx) (e f : Entry) (u : Bn24) (hw : writesEntries c = true) (he : entryIn u i = some e)
      (hkey : f.key = e.key) (hK : K f.key) :
      Write c K u (setSlot i (some f) u)
  | place (i : SlotIx) (e : Entry) (u : Bn24) (hw : writesEntries c = true) (hempty : entryIn u i = none) (hnew : NoEntry u e.key)
      (hrecent : inRecent u e.key = false) (hK : K e.key) : Write c K u (setSlot i (some e) u)
  | remove (i : SlotIx) (u : Bn24) (hw : writesEntries c = true) (hc : EmptiesSlots c) : Write c K u (setSlot i none u)
  | retire (i : SlotIx) (e : Entry) (u : Bn24) (hw : writesEntries c = true) (he : entryIn u i = some e) (hc : EmptiesSlots c) :
      Write c K u (addDeparture e.key (setSlot i none u))
  | depart (k : Key) (u : Bn24) (hnone : NoEntry u k) : Write c K u (addDeparture k u)
  | purge (u : Bn24) : Write c K u (purgeRecent u)
  | emptyTable (u : Bn24) (hw : writesEntries c = true) (hc : EmptiesSlots c) :
      Write c K u { u with table.slots := Vector.replicate 24 none, table.recent := [] }
  | evict (i : SlotIx) (u : Bn24) (hc : c = .checkIn ∨ c = .forecastRequest) : Write c K u { u with table.evict := i }
  | requests (rs : List TableRequest) (u : Bn24)
      (hrs : ∀ r ∈ rs, r ∈ u.table.requests ∨ RequestOk r ∨ SettlesFrames c) : Write c K u { u with table.requests := rs }
  | grant (g : GrantSlot) (u : Bn24) (hw : writesEntries c = true) : Write c K u (setGrant g u)
  | nextId (u : Bn24) : Write c K u { u with arbiter.nextId := nextRequestId u.arbiter.nextId }
  | joins (rs : List EntryRef) (u : Bn24) (hw : writesEntries c = true) : Write c K u { u with arbiter.joins := rs }
  | phase (v : Vector (Option PhaseRecord) 4) (u : Bn24) (hc : WritesPhase c) : Write c K u { u with controller.phase := v }
  | linkFraming (f : Framing) (u : Bn24) (hf : FramingOk u.controller.framing → FramingOk f) :
      Write c K u { u with controller.framing := f }
  | silence (b : Bool) (t : Option Time) (u : Bn24) :
      Write c K u { u with controller.silent := b, controller.silenceStart := t }
  | link (m : LinkMessage) (u : Bn24) : Write c K u (handLink m u)
  | sent (u : Bn24) :
      Write c K u
        { u with controller.sending := u.controller.waiting.head?, controller.waiting := u.controller.waiting.tail }
  | detFraming (f : Framing) (u : Bn24) (hf : FramingOk u.detection.framing → FramingOk f) :
      Write c K u { u with detection.framing := f }
  | inbox (ib : List DetectionMessage) (u : Bn24) (hlen : InboxOk u → ib.length ≤ Config.inboxCapacity) :
      Write c K u { u with detection.inbox := ib }
  | port (p : CorridorPort) (u : Bn24) (hqueue : QueueOk u → QueueOk { u with port := p }) : Write c K u { u with port := p }
  | handler (h : MessageHandler) (u : Bn24)
      (hframes : ∀ f ∈ h.frames, f ∈ u.handler.frames ∨ ∃ header payload check,
        c = .frameReceived header payload check) : Write c K u { u with handler := h }
  | clock (k : TimeUnit) (u : Bn24) (hc : writesClock c = true) (hoffset : k.offset = u.clock.offset)
      (hpeers : k.peers = u.clock.peers) :
      Write c K u { u with clock := k }
  | beacon (k : TimeUnit) (u : Bn24) (hc : c = .beaconReceived) (hpeers : PeersOk u → PeersOk { u with clock := k }) :
      Write c K u { u with clock := k }
  | loader (l : Loader) (u : Bn24) (hc : writesLoader c = true) (hforce : l.inForce = u.loader.inForce) :
      Write c K u { u with loader := l }
  | install (l : Loader) (u : Bn24) (hc : EndsLoad c) : Write c K u { u with loader := l }

/-- Elementary writes one after the other. -/
abbrev Writes (c : Instr) (K : Key → Prop) : Bn24 → Bn24 → Prop := Relation.ReflTransGen (Write c K)

variable {c : Instr} {K : Key → Prop} {u v : Bn24}

/-! ### Requests -/

theorem writes_sendTable {rs : List TableRequest} (h : ∀ r ∈ rs, RequestOk r ∨ SettlesFrames c) (u : Bn24) :
    Writes c K u (sendTable rs u) := by
  rw [sendTable_frame]
  refine .single (.requests _ u fun r hr => ?_)
  split at hr
  · exact (List.mem_append.mp hr).imp id (h r)
  · exact .inl hr

/-- A request that brings no forecast is sent (R6). -/
theorem writes_sendTable_one {r : TableRequest} (h : RequestOk r) (u : Bn24) : Writes c K u (sendTable [r] u) :=
  writes_sendTable (fun _ hr => .inl (List.mem_singleton.mp hr ▸ h)) u

/-- The evaluations of some entries are requested. -/
theorem writes_sendEvaluations (p : Entry → Bool) (v u : Bn24) : Writes c K u (sendTable (evaluationsOf p v) u) :=
  writes_sendTable (fun r hr => by
    obtain ⟨_, _, _, _, _, rfl⟩ := (mem_evaluationsOf p v r).mp hr
    exact .inl trivial) u

theorem writes_popRequest (u : Bn24) : Writes c K u (popRequest u) :=
  .single (.requests _ u fun _ hr => .inl (List.mem_of_mem_tail hr))

theorem writes_sendHandler (r : HandlerRequest) (u : Bn24) : Writes c K u (sendHandler r u) :=
  .single (.handler _ u fun _ hf => .inl hf)

theorem writes_requestPassage (r : PassageRequest) (u : Bn24) : Writes c K u (requestPassage r u) := by
  unfold requestPassage
  split
  · exact writes_sendHandler _ u
  · exact .refl

section
variable [Fact (writesEntries c = true)]

/-! ### Slots -/

theorem sameForecast_refl (e : Entry) : SameForecast e e := ⟨rfl, rfl, rfl, rfl, rfl, rfl, rfl, rfl⟩

theorem sameForecast_trans {e f g : Entry} (h : SameForecast e f) (h' : SameForecast f g) : SameForecast e g := by
  simp only [SameForecast] at *
  simp_all

/-- A change of service state, decision, declined mark or served flag leaves the forecast fields. -/
theorem sameForecast_toWaiting (e : Entry) : SameForecast e (toWaiting e) := sameForecast_refl e

theorem sameForecasts_refl (u : Bn24) : SameForecasts u u := fun i => by
  cases entryIn u i <;> constructor
  exact sameForecast_refl _

/-- One entry rewritten in place, its forecast fields kept. -/
theorem sameForecasts_setSlot {i : SlotIx} {e f : Entry} (he : entryIn u i = some e) (hf : SameForecast e f) :
    SameForecasts u (setSlot i (some f) u) := fun j => by
  rw [entryIn_setSlot]
  split
  next h => subst h; rw [he]; exact .some hf
  next => exact sameForecasts_refl u j

/-- An entry is written in place with its forecast fields kept. -/
theorem writes_setSlot {i : SlotIx} {e f : Entry} (he : entryIn u i = some e) (hf : SameForecast e f) :
    Writes c K u (setSlot i (some f) u) := .single (.serve _ u Fact.out (sameForecasts_setSlot he hf))

/-- The change of a named entry keeps its forecast fields. -/
theorem writes_modifyEntry (r : EntryRef) (f : Entry → Entry) (hf : ∀ e, SameForecast e (f e)) (u : Bn24) :
    Writes c K u (modifyEntry r f u) := by
  unfold modifyEntry
  split
  next e he => exact writes_setSlot ((entryAt_eq_some u r e).mp he).1 (hf e)
  next => exact .refl

theorem writes_returnMembers (members : List EntryRef) (u : Bn24) : Writes c K u (returnMembers members u) := by
  unfold returnMembers
  induction members generalizing u with
  | nil => exact .refl
  | cons r rest ih => exact (writes_modifyEntry r toWaiting sameForecast_toWaiting u).trans (ih _)

/-! ### The Grant Arbiter -/

theorem writes_issueOffer (d : Candidate) (u : Bn24) (h : entryIn u d.slot = some d.entry) :
    Writes c K u (issueOffer d u) := by
  have hentry : SameForecast d.entry { d.entry with service := .offered } := sameForecast_refl d.entry
  unfold issueOffer
  refine .tail (.tail ?_ (.link _ _)) (.count _ _)
  refine .trans ?_ (writes_setSlot h hentry)
  exact .head (.nextId u) (.single (.grant _ _ Fact.out))

theorem writes_selection (u : Bn24) : Writes c K u (selection u) := by
  rcases selection_cases u with h | ⟨d, hd, _, _, _, h⟩
  · rw [h]
  · rw [h]
    exact writes_issueOffer d u (selected_spec u d hd).1

theorem writes_freeGrant (u : Bn24) : Writes c K u (freeGrant u) := .tail (.tail .refl (.grant .free u Fact.out)) (.joins [] _ Fact.out)

theorem writes_grantEnded (g : Grant) (u : Bn24) : Writes c K u (grantEnded g u) :=
  ((writes_freeGrant u).trans (writes_sendEvaluations _ _ _)).trans (writes_selection _)

theorem writes_endGrant (g : Grant) (u : Bn24) : Writes c K u (endGrant g u) :=
  .head (.link (.clear g.id) u) (writes_grantEnded g _)

theorem writes_memberLeaves (r : EntryRef) (u : Bn24) : Writes c K u (memberLeaves r u) := by
  rcases memberLeaves_cases r u with ⟨h, _⟩ | ⟨g, _, ⟨_, h⟩ | ⟨m, rest, _, h⟩⟩
  · rw [h]
  · rw [h]; exact writes_endGrant g u
  · rw [h]
    split
    · exact .head (.grant _ u Fact.out) (writes_modifyEntry m (promote g) sameForecast_refl _)
    · exact .single (.grant _ u Fact.out)

theorem writes_abandonOffer (u : Bn24) : Writes c K u (abandonOffer u) := by
  unfold abandonOffer
  split
  · exact .single (.grant _ u Fact.out)
  · exact .refl
  · exact .refl

theorem writes_notifyRemoval (i : SlotIx) (e : Entry) (u : Bn24) : Writes c K u (notifyRemoval i e u) := by
  unfold notifyRemoval
  split
  · exact writes_abandonOffer u
  · exact writes_memberLeaves _ u
  · exact writes_memberLeaves _ u
  · exact .refl
  · exact .refl

theorem writes_removeEntry (hc : EmptiesSlots c) (i : SlotIx) (e : Entry) (u : Bn24) : Writes c K u (removeEntry i e u) :=
  .tail (writes_notifyRemoval i e u) (.remove i _ Fact.out hc)

theorem writes_acceptAbandoned (o : Offer) (u : Bn24) : Writes c K u (acceptAbandoned o u) :=
  .trans (.tail (.tail (.tail .refl (.count _ u)) (.link _ _)) (.grant .free _ Fact.out)) (writes_selection _)

theorem writes_acceptOffer (o : Offer) (u : Bn24) : Writes c K u (acceptOffer o u) := by
  unfold acceptOffer
  split
  · exact writes_acceptAbandoned o u
  next r _ =>
    split
    · exact writes_acceptAbandoned o u
    next e he =>
      have hin : entryIn u r.slot = some e := ((entryAt_eq_some u r e).mp he).1
      have hentry : SameForecast e { e with service := .granted, served := true } := sameForecast_refl e
      refine .tail ?_ (.count _ _)
      refine .trans ?_ (writes_setSlot hin hentry)
      exact .single (.grant _ u Fact.out)

omit [Fact (writesEntries c = true)] in
theorem writes_lateAccept (id : Byte) (u : Bn24) : Writes c K u (lateAccept id u) :=
  .tail (.single (.link _ u)) (.count _ _)

theorem writes_takeAccept (id : Byte) (u : Bn24) : Writes c K u (takeAccept id u) := by
  unfold takeAccept
  split
  · exact writes_lateAccept id u
  · split
    · exact writes_acceptOffer _ u
    · exact writes_lateAccept id u
  · split
    · exact .refl
    · exact writes_lateAccept id u

theorem writes_offerEnded (o : Offer) (u : Bn24) : Writes c K u (offerEnded o u) := by
  unfold offerEnded
  split
  · exact .head (.grant .free u Fact.out) (writes_selection _)
  · exact .trans (.tail (writes_modifyEntry _ (markDeclined u) sameForecast_refl u) (.grant .free _ Fact.out)) (writes_selection _)

theorem writes_takeDecline (id : Byte) (u : Bn24) : Writes c K u (takeDecline id u) := by
  unfold takeDecline
  split
  · exact .refl
  · split
    · split
      · exact .head (.count .callsDeclined u) (writes_offerEnded _ _)
      · exact writes_offerEnded _ u
    · exact .refl
  · exact .refl

theorem writes_overrun (g : Grant) (u : Bn24) : Writes c K u (overrun g u) :=
  .trans (.tail (.tail (.head (.link _ u) (writes_returnMembers g.members _)) (.count _ _)) (.flag _ _)) (writes_grantEnded g _)

theorem writes_admitRider (r : EntryRef) (u : Bn24) : Writes c K u (admitRider r u) := by
  unfold admitRider
  split
  next g e _ he =>
    split
    · have hin : entryIn u r.slot = some e := ((entryAt_eq_some u r e).mp he).1
      exact .head (.grant _ u Fact.out) (writes_setSlot (u := setGrant _ u) hin (sameForecast_refl e))
    · exact .refl
  · exact .refl

/-! ### The Approach Table -/

theorem writes_evaluation (r : EntryRef) (u : Bn24) : Writes c K u (applyEvaluation r u) := by
  have written : ∀ e, SameForecast e (writtenEntry u e) := by
    intro e
    unfold writtenEntry
    by_cases hm : markCleared u e = true <;> simp only [hm] <;> split <;> exact sameForecast_refl e
  have propose : ∀ (d : Verdict) (new : Entry) (w : Bn24), Writes c K w (proposeJoin r d new w) := by
    intro d new w
    unfold proposeJoin
    split
    · exact .single (.joins _ w Fact.out)
    · exact .refl
  unfold applyEvaluation
  split
  · exact .refl
  next e he =>
    have hin : entryIn u r.slot = some e := ((entryAt_eq_some u r e).mp he).1
    split
    · refine .trans ?_ (propose _ _ _)
      unfold writeEvaluation
      dsimp only
      split
      · exact (writes_setSlot hin (written e)).trans (writes_selection _)
      · exact writes_setSlot hin (written e)
    · exact .refl

theorem entryIn_disarmAll (u : Bn24) (i : SlotIx) : entryIn (disarmAll u) i = disarm (entryIn u i) := by
  simp [entryIn, disarmAll, mapSlots]

theorem writes_disarmAll (u : Bn24) : Writes c K u (disarmAll u) := by
  refine .single (.serve _ u Fact.out fun i => ?_)
  have h := entryIn_disarmAll u i
  unfold disarmAll at h
  rw [h]
  cases hi : entryIn u i with
  | none => exact .none
  | some e =>
    refine .some ?_
    split <;> exact sameForecast_refl e

omit [Fact (writesEntries c = true)] in
theorem writes_takeInbox (u : Bn24) : Writes c K u (purgeRecent (takeInbox u)) := by
  refine .tail (.tail (.single (.inbox u.detection.inbox.tail u fun h => ?_))
    (.requests _ _ fun _ hr => .inl (List.mem_of_mem_tail hr))) (.purge _)
  exact u.detection.inbox.tail_sublist.length_le.trans h

theorem writes_placeEntry {i : SlotIx} {e : Entry} (hempty : entryIn u i = none) (hnew : NoEntry u e.key)
    (hrecent : inRecent u e.key = false) (hK : K e.key) : Writes c K u (placeEntry i e u) :=
  .head (.place i e u Fact.out hempty hnew hrecent hK) (writes_sendTable_one trivial _)

/-- No key comes to stand in the table by the removal of an entry. -/
theorem noEntry_setSlot_none {k : Key} (i : SlotIx) (h : NoEntry u k) : NoEntry (setSlot i none u) k := by
  intro j f hf
  rw [entryIn_setSlot] at hf
  split at hf
  · cases hf
  · exact h j f hf

omit [Fact (writesEntries c = true)] in
theorem emptiesSlots_of_allocates (hc : c = .checkIn ∨ c = .forecastRequest) : EmptiesSlots c := by
  rcases hc with h | h
  · exact .inl h
  · exact .inr (.inr (.inr (.inl h)))

/-- A new entry takes an evicted one's slot. -/
theorem writes_evict_place {i : SlotIx} {e : Entry} (hc : c = .checkIn ∨ c = .forecastRequest) (hnew : NoEntry u e.key)
    (hrecent : inRecent u e.key = false) (hK : K e.key) :
    Writes c K u (placeEntry i e (evictSlot i u)) :=
  .head (.remove i u Fact.out (emptiesSlots_of_allocates hc)) (.head (.count _ _)
    (writes_placeEntry (by simp [entryIn, setSlot]) (noEntry_setSlot_none i hnew) hrecent hK))

/-- The same, with the pointer moved past the victim. -/
theorem writes_victim_place {i : SlotIx} {e : Entry} (hc : c = .checkIn ∨ c = .forecastRequest) (hnew : NoEntry u e.key)
    (hrecent : inRecent u e.key = false) (hK : K e.key) : Writes c K u (placeEntry i e (movePointer i (evictSlot i u))) :=
  .head (.remove i u Fact.out (emptiesSlots_of_allocates hc)) (.head (.count _ _) (.head (.evict (i + 1) _ hc)
    (writes_placeEntry (by simp [entryIn, count, setSlot]) (noEntry_setSlot_none i hnew) hrecent hK)))

theorem writes_allocateForecast {e : Entry} (hc : c = .checkIn ∨ c = .forecastRequest) (hnew : NoEntry u e.key)
    (hrecent : inRecent u e.key = false) (hK : K e.key) : Writes c K u (allocateForecast e u) := by
  unfold allocateForecast
  split
  next i hi => exact writes_placeEntry ((lowestEmpty_eq_some u i).mp hi).1 hnew hrecent hK
  next =>
    split
    · exact writes_victim_place hc hnew hrecent hK
    · exact .single (.count _ u)

theorem writes_allocateConfirmed {e : Entry} (hc : c = .checkIn ∨ c = .forecastRequest) (hnew : NoEntry u e.key)
    (hrecent : inRecent u e.key = false) (hK : K e.key) : Writes c K u (allocateConfirmed e u) := by
  have refuse : Writes c K u (flag .tableFull (count .tableRefused u)) := .tail (.single (.count _ u)) (.flag _ _)
  unfold allocateConfirmed
  split
  next i hi => exact writes_placeEntry ((lowestEmpty_eq_some u i).mp hi).1 hnew hrecent hK
  next =>
    split
    · exact writes_victim_place hc hnew hrecent hK
    · split
      · split
        · exact writes_evict_place hc hnew hrecent hK
        · exact refuse
      · exact refuse

@[simp] theorem entryIn_abandonOffer (u : Bn24) (i : SlotIx) : entryIn (abandonOffer u) i = entryIn u i := by
  unfold abandonOffer
  split <;> rfl

/-- What the arbiter does before a removal leaves the entry that is removed. -/
theorem entryIn_notifyRemoval {i : SlotIx} {e : Entry} (h : entryIn u i = some e) :
    entryIn (notifyRemoval i e u) i = some e := by
  have leaves (hs : e.service ≠ .armed) : entryIn (memberLeaves { slot := i, key := e.key } u) i = some e := by
    have hkept := entryIn_memberLeaves u { slot := i, key := e.key }
      (fun f hf => by rw [h] at hf; cases hf; rfl) (fun f hf => by rw [h] at hf; cases hf; exact hs)
    exact hkept.trans h
  unfold notifyRemoval
  cases hs : e.service with
  | waiting => exact h
  | armed => exact h
  | offered => exact (entryIn_abandonOffer u i).trans h
  | granted => exact leaves (by simp [hs])
  | riding => exact leaves (by simp [hs])

/-- An entry is removed and its key enters recent departures. -/
theorem writes_departure (hc : EmptiesSlots c) {i : SlotIx} {e : Entry} {k : Key} (h : entryIn u i = some e) (hk : e.key = k) :
    Writes c K u (addDeparture k (removeEntry i e u)) :=
  hk ▸ .tail (writes_notifyRemoval i e u) (.retire i e _ Fact.out (entryIn_notifyRemoval h) hc)

/-- Forecast fields are written, the arbiter acting first (R17, R23). -/
theorem writes_rewriteEntry {i : SlotIx} {old new : Entry} {stands : Bool} (h : entryIn u i = some old)
    (hkey : new.key = old.key) (hK : K old.key) : Writes c K u (rewriteEntry i old new stands u) := by
  have write (f : Entry) (w : Bn24) (hf : f.key = old.key) (hw : ∃ e, entryIn w i = some e ∧ e.key = old.key) :
      Writes c K w (setSlot i (some f) w) := by
    obtain ⟨e, he, hek⟩ := hw
    exact .single (.rewrite i e f w Fact.out he (hf.trans hek.symm) (hf ▸ hK))
  have ask (w w' : Bn24) (k : Key) (hw : Writes c K w w') : Writes c K w (requestEvaluation i k w') :=
    hw.trans (writes_sendTable_one trivial _)
  have stillThere (f : Entry) (hf : f.key = old.key) (hs : f.service = .waiting) : ∃ e,
      entryIn (memberLeaves { slot := i, key := old.key } (setSlot i (some f) u)) i = some e ∧ e.key = old.key := by
    have hin : entryIn (setSlot i (some f) u) i = some f := by simp
    have hkept := entryIn_memberLeaves (setSlot i (some f) u) { slot := i, key := old.key }
      (fun g hg => by rw [hin] at hg; cases hg; exact hf) (fun g hg => by rw [hin] at hg; cases hg; simp [hs])
    exact ⟨f, hkept.trans hin, hf⟩
  have stay := write new u hkey ⟨old, h, rfl⟩
  have member : Writes c K u
      (if new.approach ≠ old.approach then
        requestEvaluation i new.key (setSlot i (some (toWaiting new))
          (memberLeaves { slot := i, key := old.key } (setSlot i (some (toWaiting old)) u)))
      else if memberFits u i new then setSlot i (some new) u
      else requestEvaluation i new.key
          (memberLeaves { slot := i, key := old.key } (setSlot i (some (toWaiting new)) u))) := by
    split
    · refine ask _ _ _ (.trans ?_ (write _ _ hkey (stillThere (toWaiting old) rfl rfl)))
      exact (writes_setSlot h (sameForecast_toWaiting old)).trans (writes_memberLeaves _ _)
    · split
      · exact stay
      · exact ask _ _ _ ((write (toWaiting new) u hkey ⟨old, h, rfl⟩).trans (writes_memberLeaves _ _))
  unfold rewriteEntry
  cases hs : old.service with
  | waiting => exact ask _ _ _ stay
  | armed => exact ask _ _ _ (write _ u (by split <;> exact hkey) ⟨old, h, rfl⟩)
  | offered =>
    dsimp only
    split
    · exact stay
    · exact ask _ _ _ ((writes_abandonOffer u).trans (write _ _ hkey ⟨old, (entryIn_abandonOffer u i).trans h, rfl⟩))
  | granted => exact member
  | riding => exact member

theorem writes_handleCheckIn {k : Key} (hc : c = .checkIn) (hK : K k) (p : PointIx) (cls : Fin 4) (late : Int) (speed : Nat)
    (skip : Bool) (u : Bn24) : Writes c K u (handleCheckIn p k cls late speed skip u) := by
  unfold handleCheckIn
  split
  · exact .single (.count _ u)
  next hrecent =>
    have hrecent : inRecent u k = false := by simpa using hrecent
    split
    · exact .refl
    · split
      next hfind => exact writes_allocateConfirmed (.inl hc) ((findKey_eq_none u k).mp hfind) hrecent hK
      next i hfind =>
        obtain ⟨e, he, hk⟩ := findKey_eq_some u k i hfind
        rw [he]
        exact writes_rewriteEntry he rfl (hk ▸ hK)

theorem writes_handleCheckOut (hc : EmptiesSlots c) (p : PointIx) (k : Key) (cls : Fin 4) (late : Int) (u : Bn24) :
    Writes c K u (handleCheckOut p k cls late u) := by
  unfold handleCheckOut
  split
  · exact .single (.count _ u)
  · split
    · exact .refl
    · split
      next hfind =>
        have hnone : NoEntry (count .checkoutUnmatched u) k := (findKey_eq_none u k).mp hfind
        exact .trans (.tail (.single (.count _ u)) (.depart k _ hnone)) (writes_requestPassage _ _)
      next i hfind =>
        obtain ⟨e, he, hk⟩ := findKey_eq_some u k i hfind
        rw [he]
        exact (writes_departure hc he hk).trans (writes_requestPassage _ _)

theorem writes_handleCancel (hc : EmptiesSlots c) (k : Key) (u : Bn24) : Writes c K u (handleCancel k u) := by
  unfold handleCancel
  refine .trans ?_ (writes_sendHandler _ _)
  cases hfind : findKey u k with
  | none => exact .single (.depart k u ((findKey_eq_none u k).mp hfind))
  | some i =>
    obtain ⟨e, he, hk⟩ := findKey_eq_some u k i hfind
    simp only [he]
    exact writes_departure hc he hk

theorem writes_applyForecast {r : ForecastRequest} (hc : c = .forecastRequest) (hK : K r.key) (w : Option Window)
    (q : Option Quality) (g : Nat) {u : Bn24} (hrecent : inRecent u r.key = false) :
    Writes c K u (applyForecast r w q g u) := by
  unfold applyForecast
  split
  next hfind => exact writes_allocateForecast (.inr hc) ((findKey_eq_none u r.key).mp hfind) hrecent hK
  next i hfind =>
    obtain ⟨e, he, hk⟩ := findKey_eq_some u r.key i hfind
    rw [he]
    dsimp only
    split
    · exact .refl
    · exact writes_rewriteEntry he rfl (hk ▸ hK)

theorem writes_handleForecast {r : ForecastRequest} (hc : c = .forecastRequest) (hK : K r.key) (u : Bn24) :
    Writes c K u (handleForecast r u) := by
  unfold handleForecast
  split
  · exact .single (.count _ u)
  next hrecent =>
    have hrecent : inRecent u r.key = false := by simpa using hrecent
    split
    · exact .refl
    · split
      · exact .single (.count _ u)
      · exact writes_applyForecast hc hK _ _ _ hrecent
      · exact writes_applyForecast hc hK _ _ _ hrecent

theorem writes_handleInvalidation (hc : EmptiesSlots c) (k : Key) (u : Bn24) : Writes c K u (handleInvalidation k u) := by
  unfold handleInvalidation
  split
  · exact .refl
  · split
    · exact .refl
    · split
      · exact .refl
      · exact .head (.count _ u) (writes_removeEntry hc _ _ _)

end

/-! ### The Controller Port and the Detection Receiver -/

theorem writes_handLinkDrop (u : Bn24) : Writes c K u (dropLink u) :=
  .tail (.single (.linkFraming .hunting u fun _ => trivial)) (.count _ _)

theorem writes_afterLinkGap (u : Bn24) : Writes c K u (afterLinkGap u) := by
  unfold afterLinkGap
  split
  · exact writes_handLinkDrop u
  · exact .refl

/-- A length byte that drops its message completes none (R96). -/
theorem writes_linkByte_length (b : Byte) (u : Bn24) (hwait : awaitsLength u.controller.framing = true)
    (hout : lengthOutside b = true) : Writes c K u (linkByte b u) := by
  unfold linkByte frameLinkByte
  refine (writes_afterLinkGap u).trans ?_
  split
  next f hf => exact .single (.linkFraming f _ fun h => nextByte_framingOk h hf)
  next => exact writes_handLinkDrop _
  next payload check hwhole =>
    exfalso
    unfold afterLinkGap at hwhole
    split at hwhole
    · simp [dropLink, nextByte] at hwhole
    · cases hf : u.controller.framing with
      | hunting => simp [hf, nextByte] at hwhole
      | collecting m =>
        have hm : m.length = none := by simpa [hf, awaitsLength] using hwait
        simp [hf, nextByte, takeByte, hm, hout] at hwhole

theorem writes_dropDetection (u : Bn24) : Writes c K u (dropDetection u) :=
  .tail (.single (.detFraming .hunting u fun _ => trivial)) (.count _ _)

theorem writes_offerInbox (m : DetectionMessage) (u : Bn24) : Writes c K u (offerInbox m u) := by
  unfold offerInbox
  split
  next h =>
    refine .head (.inbox (u.detection.inbox ++ [m]) u fun _ => ?_) (writes_sendTable_one trivial _)
    simpa using h
  next => exact .tail (.single (.count _ u)) (.flag _ _)

theorem writes_receiveDetection (payload : List Byte) (check : Byte) (u : Bn24) :
    Writes c K u (receiveDetection payload check u) := by
  have hunt : Write c K u (setDetFraming .hunting u) := .detFraming .hunting u fun _ => trivial
  unfold receiveDetection
  dsimp only
  split
  · exact .head hunt (.single (.count _ _))
  · exact .head hunt (writes_offerInbox _ _)

theorem writes_detectionByte (b : Byte) (u : Bn24) : Writes c K u (detectionByte b u) := by
  have gap : Writes c K u (afterDetectionGap u) := by
    unfold afterDetectionGap
    split
    · exact writes_dropDetection u
    · exact .refl
  unfold detectionByte frameDetectionByte
  refine gap.trans ?_
  split
  next f hf => exact .single (.detFraming f _ fun h => nextByte_framingOk h hf)
  next => exact writes_dropDetection _
  next payload check _ => exact writes_receiveDetection payload check _

theorem writes_detectionBytes (bytes : List Byte) (u : Bn24) : Writes c K u (detectionBytes bytes u) := by
  unfold detectionBytes
  induction bytes generalizing u with
  | nil => exact .refl
  | cons b rest ih => exact (writes_detectionByte b u).trans (ih _)

section
variable [Fact (writesEntries c = true)]

omit [Fact (writesEntries c = true)] in
theorem writes_heardController (u : Bn24) : Writes c K u (heardController u) := by
  have restart : Writes c K u (restartSilence u) := .single (.silence u.controller.silent (some u.localTime) u)
  unfold heardController
  dsimp only
  split
  · refine .trans (.tail restart (.silence false (some u.localTime) _)) (writes_sendEvaluations _ _ _)
  · exact restart

theorem writes_deliverController (hc : WritesPhase c) (m : ControllerMessage) (u : Bn24) :
    Writes c K u (deliverController m u) := by
  cases m with
  | phaseStatus a st tc tn inhibit => exact .head (.phase _ u hc) (writes_sendEvaluations _ _ _)
  | accept id => exact writes_takeAccept id u
  | decline id => exact writes_takeDecline id u

theorem writes_receiveController (hc : WritesPhase c) (payload : List Byte) (check : Byte) (u : Bn24) :
    Writes c K u (receiveController payload check u) := by
  unfold receiveController
  dsimp only
  split
  · exact writes_handLinkDrop u
  · exact .head (.linkFraming .hunting u fun _ => trivial)
      ((writes_heardController _).trans (writes_deliverController hc _ _))

theorem writes_linkByte (hc : WritesPhase c) (b : Byte) (u : Bn24) : Writes c K u (linkByte b u) := by
  unfold linkByte frameLinkByte
  refine (writes_afterLinkGap u).trans ?_
  split
  next f hf => exact .single (.linkFraming f _ fun h => nextByte_framingOk h hf)
  next => exact writes_handLinkDrop _
  next payload check _ => exact writes_receiveController hc payload check _

theorem writes_linkBytes (hc : WritesPhase c) (bytes : List Byte) (u : Bn24) : Writes c K u (linkBytes bytes u) := by
  unfold linkBytes
  induction bytes generalizing u with
  | nil => exact .refl
  | cons b rest ih => exact (writes_linkByte hc b u).trans (ih _)

theorem writes_silenceGrant (u : Bn24) : Writes c K u (silenceGrant u) := by
  unfold silenceGrant
  split
  · exact .refl
  · split
    · exact .single (.grant .free u Fact.out)
    · exact .tail (writes_modifyEntry _ toWaiting sameForecast_toWaiting u) (.grant .free _ Fact.out)
  · exact .trans (.head (.link _ u) (writes_returnMembers _ _)) (writes_grantEnded _ _)

end

/-! ### The transmit queue -/

/-- The bounds and the order of a transmit queue (R134). -/
abbrev FramesOk (q : List QueuedFrame) : Prop :=
  q.length ≤ Config.queueCapacity ∧ (q.filter isBeacon).length ≤ 1
    ∧ q.Pairwise (fun f g => f.urgency ≤ g.urgency) ∧ ∀ f ∈ q, isBeacon f = true → f.urgency = 3

/-- What leaves frames out keeps the bounds and the order. -/
theorem framesOk_sublist {q r : List QueuedFrame} (h : FramesOk q) (hr : r.Sublist q) : FramesOk r := by
  obtain ⟨hlen, hbeacon, hsorted, hurgency⟩ := h
  exact ⟨hr.length_le.trans hlen, (hr.filter isBeacon).length_le.trans hbeacon, hsorted.sublist hr,
    fun f hf => hurgency f (hr.subset hf)⟩

/-- What changes frames but neither kind nor urgency keeps the bounds and the order. -/
theorem framesOk_map {q : List QueuedFrame} {f : QueuedFrame → QueuedFrame} (h : FramesOk q)
    (hf : ∀ g, isBeacon (f g) = isBeacon g ∧ (f g).urgency = g.urgency) : FramesOk (q.map f) := by
  obtain ⟨hlen, hbeacon, hsorted, hurgency⟩ := h
  refine ⟨by simpa using hlen, ?_, ?_, ?_⟩
  · have hcomp : (isBeacon ∘ f) = isBeacon := funext fun g => (hf g).1
    rw [List.filter_map, List.length_map, hcomp]
    exact hbeacon
  · rw [List.pairwise_map]
    exact hsorted.imp fun {a b} hab => by rw [(hf a).2, (hf b).2]; exact hab
  · intro g hg
    obtain ⟨a, ha, rfl⟩ := List.mem_map.mp hg
    rw [(hf a).1, (hf a).2]
    exact hurgency a ha

/-- A frame that enters a queue with room, a BEACON only where none is, keeps the bounds and the order. -/
theorem framesOk_insertFrame {q : List QueuedFrame} {f : QueuedFrame} (h : FramesOk q) (hroom : q.length < Config.queueCapacity)
    (hone : isBeacon f = true → f.urgency = 3 ∧ q.filter isBeacon = []) : FramesOk (insertFrame f q) := by
  obtain ⟨hlen, hbeacon, hsorted, hurgency⟩ := h
  have hperm := insertFrame_perm f q
  refine ⟨?_, ?_, insertFrame_sorted f q hsorted, ?_⟩
  · rw [hperm.length_eq]; simpa using hroom
  · rw [(hperm.filter isBeacon).length_eq, List.filter_cons]
    split
    next hf => rw [(hone hf).2]; simp
    next => exact hbeacon
  · intro g hg hgb
    rcases List.mem_cons.mp (hperm.mem_iff.mp hg) with rfl | hg
    · exact (hone hgb).1
    · exact hurgency g hg hgb

/-- The largest urgency value of a list, from a start value on, is that value or a frame's, and none is larger. -/
theorem foldl_max_urgency (l : List QueuedFrame) (a : Nat) :
    (l.foldl (fun m f => max m f.urgency) a = a ∨ ∃ f ∈ l, f.urgency = l.foldl (fun m f => max m f.urgency) a)
      ∧ a ≤ l.foldl (fun m f => max m f.urgency) a ∧ ∀ f ∈ l, f.urgency ≤ l.foldl (fun m f => max m f.urgency) a := by
  induction l generalizing a with
  | nil => simp
  | cons g rest ih =>
    obtain ⟨hval, hstart, hall⟩ := ih (max a g.urgency)
    simp only [List.foldl_cons, List.mem_cons, exists_eq_or_imp, forall_eq_or_imp]
    refine ⟨?_, by omega, by omega, hall⟩
    rcases hval with h | h
    · omega
    · exact .inr (.inr h)

/-- Where a frame may be displaced, one of the largest urgency value is (R136). -/
theorem exists_isWorst {n : Nat} {q : List QueuedFrame} (h : ∃ f ∈ q, displaceable n f = true) :
    ∃ f ∈ q, isWorst n (worstUrgency n q) f = true := by
  obtain ⟨f, hf, hd⟩ := h
  obtain ⟨hval, -, hall⟩ := foldl_max_urgency (q.filter (displaceable n)) 0
  have hle := hall f (List.mem_filter.mpr ⟨hf, hd⟩)
  have hpos : n < f.urgency := by simp only [displaceable, Bool.and_eq_true, decide_eq_true_eq] at hd; exact hd.2
  rcases hval with h | ⟨g, hg, hmax⟩
  · omega
  · obtain ⟨hgq, hgd⟩ := List.mem_filter.mp hg
    exact ⟨g, hgq, by simp [isWorst, hgd, worstUrgency, hmax]⟩

/-- A displaced frame leaves room (R136). -/
theorem length_withoutWorst_lt {n : Nat} {q : List QueuedFrame} (h : q.any (displaceable n) = true) :
    (withoutWorst n q).length < q.length := by
  obtain ⟨f, hf, hw⟩ := exists_isWorst (List.any_eq_true.mp h)
  have hpos : 0 < q.length := List.length_pos_of_mem hf
  rw [withoutWorst, removeLast, List.length_reverse, List.length_eraseP_of_mem (List.mem_reverse.mpr hf) hw, List.length_reverse]
  omega

/-- A frame entering the queue, unless it is a BEACON of another urgency than its own, keeps the bounds and the order. -/
theorem writes_placeFrame {f : QueuedFrame} (hf : isBeacon f = true → f.urgency = 3) (u : Bn24) :
    Writes c K u (placeFrame f u) := by
  have place (q : List QueuedFrame) (hq : FramesOk u.port.queue → FramesOk q) :
      Write c K u (setPort (fun p => { p with queue := q }) u) := .port { u.port with queue := q } u hq
  unfold placeFrame
  split
  next b hb =>
    refine .single (place _ fun h => ?_)
    split at hb
    next =>
      have hbeacon : isBeacon b = true := by simpa using List.find?_some hb
      have hmem : b ∈ u.port.queue := List.mem_of_find?_eq_some hb
      have hothers := framesOk_sublist h (List.filter_sublist (p := fun f => !isBeacon f) (l := u.port.queue))
      refine framesOk_insertFrame hothers ?_ fun _ => ⟨?_, ?_⟩
      · have hshort : (u.port.queue.filter (fun f => !isBeacon f)).length < u.port.queue.length :=
          List.length_filter_lt_length_iff_exists.mpr ⟨b, hmem, by simp [hbeacon]⟩
        exact hshort.trans_le h.1
      · exact h.2.2.2 b hmem hbeacon
      · simp [List.filter_filter]
    next => cases hb
  next hnone =>
    have hone : isBeacon f = true → f.urgency = 3 ∧ u.port.queue.filter isBeacon = [] := by
      intro hfb
      rw [if_pos hfb] at hnone
      exact ⟨hf hfb, by simpa using hnone⟩
    split
    next hroom => exact .single (place _ fun h => framesOk_insertFrame h hroom hone)
    next =>
      split
      next hany =>
        refine .tail (.single (place _ fun h => ?_)) (.count _ _)
        have hsub := removeLast_sublist (isWorst f.urgency (worstUrgency f.urgency u.port.queue)) u.port.queue
        have hnoBeacon (hfb : isBeacon f = true) : (withoutWorst f.urgency u.port.queue).filter isBeacon = [] :=
          List.sublist_nil.mp ((hone hfb).2 ▸ hsub.filter isBeacon)
        exact framesOk_insertFrame (framesOk_sublist h hsub) ((length_withoutWorst_lt hany).trans_le h.1)
          fun hfb => ⟨hf hfb, hnoBeacon hfb⟩
      next => exact .single (.count _ u)

theorem writes_offerFrame {body : FrameBody} {n : Nat} (h : body = .beacon → n = 3) (u : Bn24) :
    Writes c K u (offerFrame body n u) := by
  have place : Writes c K u (placeFrame (newFrame u body n) u) := by
    refine writes_placeFrame (fun hb => h ?_) u
    unfold isBeacon newFrame at hb
    cases body <;> simp_all
  unfold offerFrame
  split
  case h_1 => exact .refl
  case h_2 => exact .single (.count _ u)
  all_goals exact place

theorem writes_handleRequest (r : HandlerRequest) (u : Bn24) : Writes c K u (handleRequest r u) := by
  cases r with
  | withdraw k => exact writes_offerFrame (body := .withdraw k) nofun u
  | passage q =>
    simp only [handleRequest, buildPassage]
    split
    next d next _ => exact writes_offerFrame (body := .passage (passageFields q d next)) nofun u
    next => exact .refl

theorem writes_handleFrame {f : ReceivedFrame} (h : SettlesFrames c ∨ ∃ sender k, f = .withdraw sender k) (u : Bn24) :
    Writes c K u (handleFrame f u) := by
  have refused : Writes c K u (count .forecastDiscarded u) := .single (.count _ u)
  cases f with
  | withdraw _ k => exact writes_sendTable_one trivial u
  | passage p =>
    simp only [handleFrame, handlePassage, passageHere]
    split
    · split
      · exact refused
      · exact .refl
    · split
      · split
        · exact refused
        · exact writes_sendTable (fun _ _ => .inr (h.resolve_right (by simp))) u
      · exact writes_sendTable_one trivial u

theorem writes_settleHandler (hc : SettlesFrames c) (u : Bn24) : Writes c K u (settleHandler u) := by
  have requests (rs : List HandlerRequest) (w : Bn24) : Writes c K w (rs.foldl (fun v r => handleRequest r v) w) := by
    induction rs generalizing w with
    | nil => exact .refl
    | cons r rest ih => exact (writes_handleRequest r w).trans (ih _)
  have frames (fs : List ReceivedFrame) (w : Bn24) : Writes c K w (fs.foldl (fun v f => handleFrame f v) w) := by
    induction fs generalizing w with
    | nil => exact .refl
    | cons f rest ih => exact (writes_handleFrame (.inl hc) w).trans (ih _)
  exact .head (.handler { requests := [], frames := [] } u nofun) ((requests _ _).trans (frames _ _))

/-! ### The Corridor Port -/

/-- The line's timing leaves the queue. -/
theorem writes_timing {timing : CorridorPort → CorridorPort} (h : TimingOnly timing) (u : Bn24) :
    Write c K u (setPort timing u) :=
  .port _ u fun hq => by
    obtain ⟨-, hqueue, -⟩ := h u.port
    change FramesOk (timing u.port).queue
    rw [hqueue]
    exact hq

theorem writes_countTimes (k : Counter) (n : Nat) (u : Bn24) : Writes c K u (countTimes k n u) := by
  induction n generalizing u with
  | zero => exact .refl
  | succ n ih => exact .head (.count k u) (ih _)

theorem writes_applyBudget (u : Bn24) : Writes c K u (applyBudget u) := by
  refine .head (.port { u.port with queue := u.port.queue.dropWhile (overBudget u) } u fun h => ?_) (writes_countTimes _ _ _)
  exact framesOk_sublist h (List.dropWhile_sublist _)

theorem writes_beginAttempt (u : Bn24) : Writes c K u (beginAttempt u) := by
  unfold beginAttempt
  split
  · exact .refl
  next f rest hqueue =>
    refine .single (.port _ u fun h => ?_)
    have h : FramesOk (f :: rest) := hqueue ▸ h
    obtain ⟨hlen, hbeacon, hsorted, hurgency⟩ := h
    have hkind : isBeacon { f with underAttempt := true } = isBeacon f := rfl
    refine ⟨hlen, ?_, ?_, ?_⟩
    · cases hb : isBeacon f <;> simpa [List.filter_cons, hkind, hb] using hbeacon
    · simpa using hsorted
    · simpa [hkind] using hurgency

theorem writes_loseAttempt (afterFault : Bool) (u : Bn24) : Writes c K u (loseAttempt afterFault u) :=
  .single (.port _ u fun h => framesOk_map (q := u.port.queue) (f := releaseFrame) h fun _ => ⟨rfl, rfl⟩)

theorem writes_stopDecoding {timing : CorridorPort → CorridorPort} (h : TimingOnly timing) (u : Bn24) :
    Writes c K u (stopDecoding timing u) :=
  .single (.port _ u fun hq => by
    obtain ⟨-, hqueue, -⟩ := h u.port
    change FramesOk (timing u.port).queue
    rw [hqueue]
    exact hq)

theorem writes_dropMalformed {timing : CorridorPort → CorridorPort} (h : TimingOnly timing) (u : Bn24) :
    Writes c K u (dropMalformed timing u) := by
  unfold dropMalformed
  dsimp only
  split
  · exact writes_stopDecoding h u
  · exact .tail (writes_stopDecoding h u) (.count _ _)

theorem framesOk_nil : FramesOk [] := ⟨Nat.zero_le _, Nat.zero_le _, .nil, nofun⟩

theorem writes_receiveFrame (header : Half) (payload : List Byte) (check : Half) (hc : c = .frameReceived header payload check)
    (u : Bn24) :
    Writes c K u (receiveFrame header payload check u) := by
  have clash (w : Bn24) : Writes c K w (takeClash w) :=
    .tail (.head (.port _ w fun _ => framesOk_nil) (writes_countTimes _ _ _)) (.flag _ _)
  have deliver (start : Time) (w : Bn24) : Writes c K w (deliverFrame header payload start w) := by
    unfold deliverFrame
    dsimp only
    split
    · exact .single (.clock _ w (hc ▸ rfl) rfl rfl)
    · split <;> exact .single (.handler _ w fun _ _ => .inr ⟨header, payload, check, hc⟩)
  have stop := writes_stopDecoding (c := c) (K := K) frameEnded_timingOnly u
  unfold receiveFrame
  split
  · exact writes_dropMalformed frameEnded_timingOnly u
  · dsimp only
    split
    · split
      · exact (stop.tail (.count _ _)).trans (clash _)
      · exact (stop.tail (.count _ _)).trans (deliver _ _)
    · exact stop.tail (.count _ _)

/-! ### The Corridor Time Unit -/

theorem writes_leftState (old : LockState) (u : Bn24) : Writes c K u (leftState old u) := by
  have left : Writes c K u (leftFine u) := by
    unfold leftFine
    split
    · exact .single (.flag _ u)
    · exact .refl
  unfold leftState
  cases old
  case fine => exact left
  all_goals exact .refl

theorem writes_enterAcquiring (hc : writesClock c = true) (u : Bn24) : Writes c K u (enterAcquiring u) := .single (.clock _ u hc rfl rfl)

theorem writes_enterFree (hc : writesClock c = true) (u : Bn24) : Writes c K u (enterFree u) := .single (.clock _ u hc rfl rfl)

theorem writes_enterHoldover (hc : writesClock c = true) (u : Bn24) : Writes c K u (enterHoldover u) := by
  unfold enterHoldover
  refine .trans (.tail ?_ (.flag _ _)) (writes_leftState _ _)
  exact .single (.clock _ u hc rfl rfl)

theorem writes_resumeLock (hc : writesClock c = true) (v : SavedLock) (u : Bn24) : Writes c K u (resumeLock v u) := by
  have restore : Writes c K u (restoreLock v u) := .single (.clock _ u hc rfl rfl)
  unfold resumeLock
  dsimp only
  split
  · exact writes_enterAcquiring hc u
  · exact writes_enterAcquiring hc u
  · split
    · exact restore.trans (writes_enterHoldover hc _)
    · exact restore
  · split
    · exact restore.trans (writes_enterHoldover hc _)
    · exact restore
  · split
    · exact restore.trans (writes_enterFree hc _)
    · exact restore
  · split
    · exact writes_enterAcquiring hc u
    · exact restore

theorem writes_clockStart (hc : writesClock c = true) (u : Bn24) : Writes c K u (clockStart u) := by
  have start : Write c K u (setClock (fun k => { k with beaconStart := some u.localTime, saved := none, noted := none }) u) :=
    .clock _ u hc rfl rfl
  unfold clockStart
  dsimp only
  split
  · split
    · exact .head start (writes_resumeLock hc _ _)
    · exact .head start ((writes_enterAcquiring hc _).trans (writes_leftState _ _))
  · exact .head start (writes_enterAcquiring hc _)

/-- A record of station `new` in the place of `out`: in the stations, one number for the other. -/
theorem map_station_swapPeer (out new : Peer) (peers : List Peer) :
    (peers.map (swapPeer out new)).map Peer.station =
      (peers.map Peer.station).map (fun n => if n = out.station then new.station else n) := by
  simp only [List.map_map]
  refine List.map_congr_left fun p _ => ?_
  simp only [Function.comp_apply, swapPeer]
  split <;> rfl

/-- A station that no other record has takes another's place. -/
theorem nodup_swapPeer {out new : Peer} {peers : List Peer} (h : (peers.map Peer.station).Nodup)
    (hnew : ∀ p ∈ peers, p.station = new.station → p.station = out.station) :
    ((peers.map (swapPeer out new)).map Peer.station).Nodup := by
  rw [map_station_swapPeer]
  refine h.map_on fun a ha b hb hab => ?_
  obtain ⟨p, hp, rfl⟩ := List.mem_map.mp ha
  obtain ⟨q, hq, rfl⟩ := List.mem_map.mp hb
  by_cases hpo : p.station = out.station <;> by_cases hqo : q.station = out.station
  · rw [hpo, hqo]
  · rw [if_pos hpo, if_neg hqo] at hab
    exact absurd (hnew q hq hab.symm) hqo
  · rw [if_neg hpo, if_pos hqo] at hab
    exact absurd (hnew p hp hab) hpo
  · rwa [if_neg hpo, if_neg hqo] at hab

/-- At most 16 records stay, one of each station (R161, R163). -/
theorem recordPeer_bounds (new : Peer) (reference : Nat) {peers : List Peer} (hlen : peers.length ≤ Config.peerCapacity)
    (hnodup : (peers.map Peer.station).Nodup) :
    (recordPeer new reference peers).length ≤ Config.peerCapacity
      ∧ ((recordPeer new reference peers).map Peer.station).Nodup := by
  unfold recordPeer
  split
  next => exact ⟨by simpa using hlen, nodup_swapPeer hnodup fun _ _ h => h⟩
  next hnone =>
    have hnone : ∀ p ∈ peers, p.station ≠ new.station := by simpa using hnone
    split
    next hroom =>
      refine ⟨by simpa using hroom, ?_⟩
      rw [List.map_append]
      refine hnodup.append (by simp) fun n hn hnew => ?_
      obtain ⟨p, hp, rfl⟩ := List.mem_map.mp hn
      exact hnone p hp (by simpa using hnew)
    next =>
      split
      next out _ => exact ⟨by simpa using hlen, nodup_swapPeer hnodup fun p hp h => absurd h (hnone p hp)⟩
      next => exact ⟨hlen, hnodup⟩

/-- In BEACON_RECEIVED the Corridor Time Unit is changed with its peer table kept. -/
theorem writes_setClock (hc : c = .beaconReceived) {f : TimeUnit → TimeUnit} {u : Bn24}
    (hpeers : (f u.clock).peers = u.clock.peers) : Write c K u (setClock f u) :=
  .beacon _ u hc fun h => by
    change (f u.clock).peers.length ≤ _ ∧ ((f u.clock).peers.map Peer.station).Nodup
    rw [hpeers]
    exact h

theorem writes_stepOffset (hc : c = .beaconReceived) (e : Int) (u : Bn24) : Writes c K u (stepOffset e u) :=
  .tail (.single (writes_setClock hc rfl)) (.count _ _)

theorem writes_takeReference (hc : c = .beaconReceived) (station : Nat) (e : Int) (u : Bn24) :
    Writes c K u (takeReference station e u) := by
  have reference : Writes c K u (setReference station u) := by
    unfold setReference
    dsimp only
    split
    · exact .single (writes_setClock hc rfl)
    · exact .tail (.single (writes_setClock hc rfl)) (.count _ _)
  unfold takeReference
  refine .trans ?_ (writes_leftState _ _)
  exact .tail (reference.trans (writes_stepOffset hc e _)) (writes_setClock hc rfl)

theorem writes_followCoarse (hc : c = .beaconReceived) (e : Int) (u : Bn24) : Writes c K u (followCoarse e u) := by
  have entered (w : Bn24) : Writes c K w (enteredFine w) := by
    unfold enteredFine
    split
    · exact .single (.flag _ w)
    · exact .refl
  unfold followCoarse
  split
  · exact .tail (writes_stepOffset hc e u) (writes_setClock hc rfl)
  · split
    · exact .single (writes_setClock hc rfl)
    · split
      · exact .single (writes_setClock hc rfl)
      · exact .head (writes_setClock hc rfl) (entered _)

theorem writes_followFine (hc : c = .beaconReceived) (e : Int) (u : Bn24) : Writes c K u (followFine e u) := by
  unfold followFine
  split
  · refine .trans ?_ (writes_leftState .fine _)
    exact .tail (writes_stepOffset hc e u) (writes_setClock hc rfl)
  · split
    · exact .single (writes_setClock hc rfl)
    · split
      · exact .single (writes_setClock hc rfl)
      · refine .trans ?_ (writes_leftState .fine _)
        exact .single (writes_setClock hc rfl)

theorem writes_applyLowerBeacon (hc : c = .beaconReceived) (station : Nat) (e : Int) (u : Bn24) :
    Writes c K u (applyLowerBeacon station e u) := by
  have take := writes_takeReference (K := K) hc station e u
  unfold applyLowerBeacon
  split
  · exact .refl
  · exact take
  · exact take
  · split
    · exact take
    · split
      · exact writes_followCoarse hc e u
      · exact .refl
  · split
    · exact take
    · split
      · exact writes_followFine hc e u
      · exact .refl
  · split
    · exact .refl
    · exact take

theorem writes_handleBeacon (hc : c = .beaconReceived) (b : ReceivedBeacon) (u : Bn24) : Writes c K u (handleBeacon b u) := by
  unfold handleBeacon
  split
  · exact .refl
  · split
    next lock _ =>
      have record : Write c K u (setClock (fun k => { k with
          peers := recordPeer { station := b.station, last := b.startMark, lock := lock } k.reference k.peers }) u) :=
        .beacon _ u hc fun h => recordPeer_bounds _ _ h.1 h.2
      unfold applyBeacon
      dsimp only
      split
      · exact .head record (writes_applyLowerBeacon hc _ _ _)
      · exact .single record
    next => exact .refl

/-! ### The Configuration Loader -/

theorem writes_setLoader (hc : writesLoader c = true) {f : Loader → Loader} {u : Bn24} (h : (f u.loader).inForce = u.loader.inForce) :
    Write c K u (setLoader f u) := .loader _ u hc h

theorem writes_endUnconfigured (hc : writesLoader c = true) (u : Bn24) : Writes c K u (endUnconfigured u) :=
  .single (writes_setLoader hc rfl)

theorem writes_faultLoad (hc : writesLoader c = true) (u : Bn24) : Writes c K u (faultLoad u) :=
  .head (.flag .loadFault u) (writes_endUnconfigured hc _)

theorem writes_beginLoad (hc : writesLoader c = true) (n : Nat) (u : Bn24) : Writes c K u (beginLoad n u) := by
  unfold beginLoad
  dsimp only
  split
  · exact .single (writes_setLoader hc rfl)
  · exact .head (writes_setLoader hc rfl) (writes_faultLoad hc _)

/-- The commands that end a load write the loader and the clock. -/
theorem endsLoad_writes (hc : EndsLoad c) : writesLoader c = true ∧ writesClock c = true := by
  rcases hc with ⟨m, n, rfl⟩ | ⟨t, b, rfl⟩ <;> exact ⟨rfl, rfl⟩

theorem writes_endRunning (hc : EndsLoad c) (u : Bn24) : Writes c K u (endRunning u) := by
  have hclock := (endsLoad_writes hc).2
  have install (w : Bn24) : Writes c K w (installConfiguration w) :=
    .head (.install { w.loader with run := .running, phase := .none, inForce := w.loader.working, working := .fresh } w hc)
      (.single (.maint { w.maint with enables := w.loader.working.params.enables } _ rfl rfl))
  have receivers (w : Bn24) : Writes c K w (startReceivers w) :=
    .tail (.tail (.single (.detFraming .hunting w fun _ => trivial)) (.linkFraming .hunting _ fun _ => trivial))
      (.silence w.controller.silent (some w.localTime) _)
  have port (w : Bn24) : Writes c K w (startPort w) := .single (.port _ w id)
  exact ((((writes_settleHandler (.inr hc) u).trans (install _)).trans (receivers _)).trans (port _)).trans (writes_clockStart hclock _)

theorem writes_readRecord (hc : EndsLoad c) (type : Byte) (body : List Byte) (remaining position : Nat) (u : Bn24) :
    Writes c K u (readRecord type body remaining position u) := by
  have hloader := (endsLoad_writes hc).1
  have overflow (w : Bn24) : Writes c K w (overflowTable w) := .head (.flag _ w) (writes_endRunning hc _)
  have next (p : Nat) (w : Bn24) : Writes c K w (nextRecord remaining p w) := by
    unfold nextRecord
    split
    · exact writes_endRunning hc w
    · split
      · exact overflow w
      · exact .single (writes_setLoader hloader rfl)
  have take : Writes c K u (takeOrSkip type body u) := by
    unfold takeOrSkip
    split
    · exact .single (writes_setLoader hloader rfl)
    · exact .single (.flag _ u)
  unfold readRecord
  split
  · exact .head (.flag _ u) (writes_endRunning hc _)
  · split
    · exact overflow u
    · exact take.trans (next _ _)

theorem writes_doReload [Fact (writesEntries c = true)] (hc : WritesPhase c) (hempties : EmptiesSlots c)
    (hclock : writesClock c = true) (hloader : writesLoader c = true) (n : Nat) (u : Bn24) : Writes c K u (doReload n u) := by
  have clear : Writes c K u (clearForReload u) := by
    unfold clearForReload
    split
    · exact .refl
    · exact .single (.link _ u)
    · exact .single (.link _ u)
  have empty (w : Bn24) : Writes c K w (emptyBlocks w) :=
    .head (.emptyTable w Fact.out hempties) (.head (.requests [] _ nofun) (.head (.grant .free _ Fact.out) (.head (.joins [] _ Fact.out)
      (.head (.phase (Vector.replicate 4 none) _ hc) (.head (.linkFraming .hunting _ fun _ => trivial)
        (.head (.silence false none _) (.head (.detFraming .hunting _ fun _ => trivial)
          (.single (.inbox [] _ fun _ => Nat.zero_le _)))))))))
  have port (w : Bn24) : Writes c K w (portOff w) := .single (.port _ w fun _ => framesOk_nil)
  have clock (w : Bn24) : Writes c K w (clockOff w) := by
    unfold clockOff
    split
    · exact .single (.clock _ w hclock rfl rfl)
    · exact .refl
  exact (((clear.trans (empty _)).trans (port _)).trans (clock _)).trans (writes_beginLoad hloader n _)

/-! ### Every command -/

/-- The keys whose forecast fields a command may write: that of the CHECK-IN or of the forecast request that it takes. -/
def TakesKey (s : State) (c : Instr) (k : Key) : Prop :=
  (c = .checkIn ∧ ∃ p cls late speed skip, turnOfInbox s.unit = some (.checkIn p k cls late speed skip))
    ∨ (c = .forecastRequest ∧ ∃ r rest, s.unit.table.requests = .forecast r :: rest ∧ r.key = k)

/-- A command of the form of most makes its effect's writes, or none in reset. -/
theorem writes_unlessReset {s t : State} {f : Bn24 → Bn24} (h : unlessReset f s = .next t) (hf : Writes c K s.unit (f s.unit)) :
    Writes c K s.unit t.unit := by
  obtain ⟨-, ⟨-, ht⟩ | ⟨-, ht⟩⟩ := unlessReset_next h
  · exact ht ▸ .refl
  · exact ht ▸ hf

/-- A command that has its effect under a test writes only where the test holds. -/
theorem writes_ite {p : Prop} [Decidable p] (h : p → Writes c K u v) : Writes c K u (if p then v else u) := by
  split
  next hp => exact h hp
  next => exact .refl

/-- The commands of the maintenance port that leave counters and flags. -/
theorem writes_setMaint {f : Maintenance → Maintenance} (hcounters : ∀ m, (f m).counters = m.counters)
    (hflags : ∀ m, (f m).flags = m.flags) (u : Bn24) : Writes c K u (setMaint f u) :=
  .single (.maint _ u (hcounters _) (hflags _))

/-- Keeping a transfer open leaves counters and flags. -/
theorem keepOpen_keeps (m : Maintenance) : (keepOpen m).counters = m.counters ∧ (keepOpen m).flags = m.flags := by
  unfold keepOpen
  split <;> exact ⟨rfl, rfl⟩

theorem writes_maintenance {f : Maintenance → Maintenance} {s t : State} (h : unlessReset (setMaint f) s = .next t)
    (hf : ∀ m, (f m).counters = m.counters ∧ (f m).flags = m.flags) : Writes c K s.unit t.unit :=
  writes_unlessReset h (writes_setMaint (fun m => (hf m).1) (fun m => (hf m).2) _)

theorem execResetRelease_writes (madr : BitVec 2) (n : Nat) {s t : State} (h : execResetRelease madr n s = .next t) :
    Writes (.resetRelease madr n) (TakesKey s (.resetRelease madr n)) s.unit t.unit := by
  injection h with h
  subst h
  refine writes_ite fun _ => ?_
  exact .head (.release _) (.head (.maint { s.unit.maint with madr := madr } _ rfl rfl) (writes_beginLoad rfl n _))

theorem execLoadFault_writes {s t : State} (h : execLoadFault s = .next t) :
    Writes .loadFault (TakesKey s .loadFault) s.unit t.unit :=
  writes_unlessReset h (writes_ite fun _ => writes_faultLoad rfl _)

theorem execEsclHoldTimeout_writes {s t : State} (h : execEsclHoldTimeout s = .next t) :
    Writes .esclHoldTimeout (TakesKey s .esclHoldTimeout) s.unit t.unit :=
  writes_unlessReset h (writes_ite fun _ => writes_faultLoad rfl _)

theorem execImageMarkRead_writes (mark : Byte) {s t : State} (h : execImageMarkRead mark s = .next t) :
    Writes (.imageMarkRead mark) (TakesKey s (.imageMarkRead mark)) s.unit t.unit := by
  simp only [execImageMarkRead] at h
  refine writes_unlessReset h ?_
  split
  · split
    · exact .single (writes_setLoader rfl rfl)
    · exact writes_endUnconfigured rfl _
  all_goals exact .refl

theorem execIdentityBlockRead_writes (station rate site0 site1 : Byte) {s t : State}
    (h : execIdentityBlockRead station rate site0 site1 s = .next t) :
    Writes (.identityBlockRead station rate site0 site1) (TakesKey s (.identityBlockRead station rate site0 site1)) s.unit t.unit := by
  simp only [execIdentityBlockRead] at h
  refine writes_unlessReset h ?_
  split
  case h_1 =>
    unfold readIdentity
    dsimp only
    split
    · exact .head (writes_setLoader rfl rfl) (writes_endUnconfigured rfl _)
    · exact .head (writes_setLoader rfl rfl) (.single (writes_setLoader rfl rfl))
  all_goals exact .refl

theorem execParameterBlockRead_writes (mark : Byte) (block : Vector Byte 18) {s t : State}
    (h : execParameterBlockRead mark block s = .next t) :
    Writes (.parameterBlockRead mark block) (TakesKey s (.parameterBlockRead mark block)) s.unit t.unit := by
  simp only [execParameterBlockRead] at h
  refine writes_unlessReset h ?_
  split
  case h_1 => exact .single (writes_setLoader rfl rfl)
  all_goals exact .refl

theorem execTableMarkRead_writes (mark n : Byte) {s t : State} (h : execTableMarkRead mark n s = .next t) :
    Writes (.tableMarkRead mark n) (TakesKey s (.tableMarkRead mark n)) s.unit t.unit := by
  simp only [execTableMarkRead] at h
  refine writes_unlessReset h ?_
  split
  case h_1 =>
    split
    · exact writes_endRunning (.inl ⟨_, _, rfl⟩) _
    · exact .single (writes_setLoader rfl rfl)
  all_goals exact .refl

theorem execTableRecordRead_writes (type : Byte) (body : Vector Byte 11) {s t : State} (h : execTableRecordRead type body s = .next t) :
    Writes (.tableRecordRead type body) (TakesKey s (.tableRecordRead type body)) s.unit t.unit := by
  simp only [execTableRecordRead] at h
  refine writes_unlessReset h ?_
  split
  case h_1 => exact writes_readRecord (.inr ⟨_, _, rfl⟩) _ _ _ _ _
  all_goals exact .refl

theorem execMaintTransferStart_writes (address : BitVec 7) (direction : BusDirection) {s t : State}
    (h : execMaintTransferStart address direction s = .next t) :
    Writes (.maintTransferStart address direction) (TakesKey s (.maintTransferStart address direction)) s.unit t.unit :=
  writes_maintenance h fun _ => ⟨rfl, rfl⟩

theorem execMaintTransferEnd_writes {s t : State} (h : execMaintTransferEnd s = .next t) :
    Writes .maintTransferEnd (TakesKey s .maintTransferEnd) s.unit t.unit :=
  writes_maintenance h fun _ => ⟨rfl, rfl⟩

theorem execInternalAddressWrite_writes (address : Byte) {s t : State} (h : execInternalAddressWrite address s = .next t) :
    Writes (.internalAddressWrite address) (TakesKey s (.internalAddressWrite address)) s.unit t.unit :=
  writes_maintenance h fun m => by split <;> exact ⟨rfl, rfl⟩

theorem execAttentionEnablesWrite_writes (second : Byte) {s t : State} (h : execAttentionEnablesWrite second s = .next t) :
    Writes (.attentionEnablesWrite second) (TakesKey s (.attentionEnablesWrite second)) s.unit t.unit := by
  refine writes_maintenance h fun m => ?_
  split
  · split <;> exact ⟨rfl, rfl⟩
  · exact ⟨rfl, rfl⟩

theorem execReload_writes (n : Nat) {s t : State} (h : execReload n s = .next t) :
    Writes (.reload n) (TakesKey s (.reload n)) s.unit t.unit := by
  have : Fact (writesEntries (.reload n) = true) := ⟨rfl⟩
  simp only [execReload] at h
  have hphase : WritesPhase (.reload n) := .inr (.inr ⟨n, rfl⟩)
  have hempties : EmptiesSlots (.reload n) := by simp [EmptiesSlots]
  refine writes_unlessReset h (writes_ite fun _ => ?_)
  split
  · exact .single (.maint _ _ rfl rfl)
  · exact Relation.ReflTransGen.head (.maint (takeCommand 0x01 .done s.unit.maint) _ rfl rfl) (writes_doReload hphase hempties rfl rfl n _)

theorem execClearCounters_writes {s t : State} (h : execClearCounters s = .next t) :
    Writes .clearCounters (TakesKey s .clearCounters) s.unit t.unit := by
  simp only [execClearCounters] at h
  refine writes_unlessReset h (.single (.clearCounters _ _ rfl ?_))
  dsimp only
  split <;> rfl

theorem execClearFlags_writes (second : Byte) {s t : State} (h : execClearFlags second s = .next t) :
    Writes (.clearFlags second) (TakesKey s (.clearFlags second)) s.unit t.unit := by
  simp only [execClearFlags] at h
  refine writes_unlessReset h ?_
  unfold setMaint
  dsimp only
  split
  · split
    next first _ => exact .single (.clearFlags _ _ second (~~~(first ++ second)) rfl rfl rfl)
    next => exact .single (.maint _ _ rfl rfl)
    next => exact .single (.maint _ _ rfl rfl)
  · exact .refl

theorem execCommandUnknown_writes (code : Byte) {s t : State} (h : execCommandUnknown code s = .next t) :
    Writes (.commandUnknown code) (TakesKey s (.commandUnknown code)) s.unit t.unit :=
  writes_maintenance h fun m => by split <;> exact ⟨rfl, rfl⟩

theorem execMaintWriteIgnored_writes (value : Byte) {s t : State} (h : execMaintWriteIgnored value s = .next t) :
    Writes (.maintWriteIgnored value) (TakesKey s (.maintWriteIgnored value)) s.unit t.unit :=
  writes_maintenance h fun m => by split <;> exact ⟨rfl, rfl⟩

theorem execReadLatchFirstByte_writes {s t : State} (h : execReadLatchFirstByte s = .next t) :
    Writes .readLatchFirstByte (TakesKey s .readLatchFirstByte) s.unit t.unit := by
  simp only [execReadLatchFirstByte] at h
  refine writes_unlessReset h (writes_ite fun _ => ?_)
  unfold readFirst
  dsimp only
  split
  · exact .single (.maint _ _ rfl rfl)
  · exact .single (.maint _ _ rfl rfl)

theorem execReadLatchSecondByte_writes {s t : State} (h : execReadLatchSecondByte s = .next t) :
    Writes .readLatchSecondByte (TakesKey s .readLatchSecondByte) s.unit t.unit := by
  simp only [execReadLatchSecondByte] at h
  refine writes_unlessReset h (writes_ite fun _ => ?_)
  split
  · unfold readSecond
    split
    · split
      · exact .single (.maint _ _ rfl rfl)
      · exact .single (.maint _ _ rfl rfl)
    · exact .single (.maint _ _ rfl rfl)
  · exact .refl

theorem execDetMessageReceived_writes (payload : List Byte) (check : Option Byte) {s t : State}
    (h : execDetMessageReceived payload check s = .next t) :
    Writes (.detMessageReceived payload check) (TakesKey s (.detMessageReceived payload check)) s.unit t.unit := by
  simp only [execDetMessageReceived] at h
  refine writes_unlessReset h (writes_ite fun _ => ?_)
  split
  · exact writes_receiveDetection _ _ _
  · exact writes_detectionBytes _ _

theorem execDetLengthDrop_writes (length : Byte) {s t : State} (h : execDetLengthDrop length s = .next t) :
    Writes (.detLengthDrop length) (TakesKey s (.detLengthDrop length)) s.unit t.unit :=
  writes_unlessReset h (writes_ite fun _ => writes_detectionByte _ _)

theorem execDetGapAbandon_writes {s t : State} (h : execDetGapAbandon s = .next t) :
    Writes .detGapAbandon (TakesKey s .detGapAbandon) s.unit t.unit :=
  writes_unlessReset h (writes_ite fun _ => writes_dropDetection _)

theorem execDetCharacterError_writes {s t : State} (h : execDetCharacterError s = .next t) :
    Writes .detCharacterError (TakesKey s .detCharacterError) s.unit t.unit :=
  writes_unlessReset h (writes_ite fun _ => writes_dropDetection _)

theorem execCheckIn_writes {s t : State} (h : execCheckIn s = .next t) :
    Writes .checkIn (TakesKey s .checkIn) s.unit t.unit := by
  have : Fact (writesEntries .checkIn = true) := ⟨rfl⟩
  simp only [execCheckIn] at h
  refine writes_unlessReset h ?_
  split
  next p k cls late speed skip hturn =>
    have hK : TakesKey s .checkIn k := .inl ⟨rfl, p, cls, late, speed, skip, hturn⟩
    exact (writes_takeInbox _).trans (writes_handleCheckIn rfl hK ..)
  next => exact .refl

theorem execCheckOut_writes {s t : State} (h : execCheckOut s = .next t) :
    Writes .checkOut (TakesKey s .checkOut) s.unit t.unit := by
  have : Fact (writesEntries .checkOut = true) := ⟨rfl⟩
  simp only [execCheckOut] at h
  refine writes_unlessReset h ?_
  split
  · exact (writes_takeInbox _).trans (writes_handleCheckOut (by simp [EmptiesSlots]) ..)
  · exact .refl

theorem execCancel_writes {s t : State} (h : execCancel s = .next t) :
    Writes .cancel (TakesKey s .cancel) s.unit t.unit := by
  have : Fact (writesEntries .cancel = true) := ⟨rfl⟩
  simp only [execCancel] at h
  refine writes_unlessReset h ?_
  split
  · exact (writes_takeInbox _).trans (writes_handleCancel (by simp [EmptiesSlots]) ..)
  · exact .refl

theorem execForecastRequest_writes {s t : State} (h : execForecastRequest s = .next t) :
    Writes .forecastRequest (TakesKey s .forecastRequest) s.unit t.unit := by
  have : Fact (writesEntries .forecastRequest = true) := ⟨rfl⟩
  simp only [execForecastRequest] at h
  refine writes_unlessReset h ?_
  split
  next r rest hfront =>
    have hK : TakesKey s .forecastRequest r.key := .inr ⟨rfl, r, rest, hfront, rfl⟩
    exact .trans (.tail (writes_popRequest _) (.purge _)) (writes_handleForecast rfl hK _)
  next => exact .refl

theorem execInvalidationRequest_writes {s t : State} (h : execInvalidationRequest s = .next t) :
    Writes .invalidationRequest (TakesKey s .invalidationRequest) s.unit t.unit := by
  have : Fact (writesEntries .invalidationRequest = true) := ⟨rfl⟩
  simp only [execInvalidationRequest] at h
  refine writes_unlessReset h ?_
  split
  · exact (writes_popRequest _).trans (writes_handleInvalidation (by simp [EmptiesSlots]) _ _)
  · exact .refl

theorem execEvaluation_writes {s t : State} (h : execEvaluation s = .next t) :
    Writes .evaluation (TakesKey s .evaluation) s.unit t.unit := by
  have : Fact (writesEntries .evaluation = true) := ⟨rfl⟩
  simp only [execEvaluation] at h
  refine writes_unlessReset h ?_
  split
  · exact (writes_popRequest _).trans (writes_evaluation _ _)
  · exact .refl

theorem execSilenceRequest_writes {s t : State} (h : execSilenceRequest s = .next t) :
    Writes .silenceRequest (TakesKey s .silenceRequest) s.unit t.unit := by
  have : Fact (writesEntries .silenceRequest = true) := ⟨rfl⟩
  simp only [execSilenceRequest] at h
  refine writes_unlessReset h ?_
  split
  · exact (writes_popRequest _).trans (writes_disarmAll _)
  · exact .refl

theorem execEntryExpiry_writes (slot : SlotIx) {s t : State} (h : execEntryExpiry slot s = .next t) :
    Writes (.entryExpiry slot) (TakesKey s (.entryExpiry slot)) s.unit t.unit := by
  have : Fact (writesEntries (.entryExpiry slot) = true) := ⟨rfl⟩
  simp only [execEntryExpiry] at h
  refine writes_unlessReset h ?_
  split
  · exact writes_ite fun _ => .head (.count _ _) (writes_removeEntry (by simp [EmptiesSlots]) _ _ _)
  · exact .refl

theorem execUntimedExpiry_writes (slot : SlotIx) {s t : State} (h : execUntimedExpiry slot s = .next t) :
    Writes (.untimedExpiry slot) (TakesKey s (.untimedExpiry slot)) s.unit t.unit := by
  have : Fact (writesEntries (.untimedExpiry slot) = true) := ⟨rfl⟩
  simp only [execUntimedExpiry] at h
  refine writes_unlessReset h ?_
  split
  · exact writes_ite fun _ => .head (.count _ _) (writes_removeEntry (by simp [EmptiesSlots]) _ _ _)
  · exact .refl

theorem execRecentDepartureLapse_writes {s t : State} (h : execRecentDepartureLapse s = .next t) :
    Writes .recentDepartureLapse (TakesKey s .recentDepartureLapse) s.unit t.unit :=
  writes_unlessReset h (.single (.purge _))

theorem execJoinRequest_writes {s t : State} (h : execJoinRequest s = .next t) :
    Writes .joinRequest (TakesKey s .joinRequest) s.unit t.unit := by
  have : Fact (writesEntries .joinRequest = true) := ⟨rfl⟩
  simp only [execJoinRequest] at h
  refine writes_unlessReset h ?_
  split
  · exact .refl
  · exact .head (.joins _ _ Fact.out) (writes_admitRider _ _)

theorem execReplyWaitExpiry_writes {s t : State} (h : execReplyWaitExpiry s = .next t) :
    Writes .replyWaitExpiry (TakesKey s .replyWaitExpiry) s.unit t.unit := by
  have : Fact (writesEntries .replyWaitExpiry = true) := ⟨rfl⟩
  simp only [execReplyWaitExpiry] at h
  refine writes_unlessReset h ?_
  split
  · exact writes_ite fun _ => .head (.count _ _) (writes_offerEnded _ _)
  all_goals exact .refl

theorem execGrantDeadline_writes {s t : State} (h : execGrantDeadline s = .next t) :
    Writes .grantDeadline (TakesKey s .grantDeadline) s.unit t.unit := by
  have : Fact (writesEntries .grantDeadline = true) := ⟨rfl⟩
  simp only [execGrantDeadline] at h
  refine writes_unlessReset h ?_
  split
  · exact writes_ite fun _ => writes_overrun _ _
  all_goals exact .refl

theorem execControllerMessageReceived_writes (payload : List Byte) (check : Option Byte) {s t : State}
    (h : execControllerMessageReceived payload check s = .next t) :
    Writes (.controllerMessageReceived payload check) (TakesKey s (.controllerMessageReceived payload check)) s.unit t.unit := by
  have : Fact (writesEntries (.controllerMessageReceived payload check) = true) := ⟨rfl⟩
  have hphase : WritesPhase (.controllerMessageReceived payload check) := .inl ⟨_, _, rfl⟩
  simp only [execControllerMessageReceived] at h
  refine writes_unlessReset h (writes_ite fun _ => ?_)
  split
  · exact writes_receiveController hphase _ _ _
  · exact writes_linkBytes hphase _ _

theorem execLinkLengthDrop_writes (length : Byte) {s t : State} (h : execLinkLengthDrop length s = .next t) :
    Writes (.linkLengthDrop length) (TakesKey s (.linkLengthDrop length)) s.unit t.unit := by
  simp only [execLinkLengthDrop] at h
  refine writes_unlessReset h (writes_ite fun htest => ?_)
  simp only [Bool.and_eq_true] at htest
  exact writes_linkByte_length _ _ htest.1.2 htest.2

theorem execLinkGapAbandon_writes {s t : State} (h : execLinkGapAbandon s = .next t) :
    Writes .linkGapAbandon (TakesKey s .linkGapAbandon) s.unit t.unit :=
  writes_unlessReset h (writes_ite fun _ => writes_handLinkDrop _)

theorem execLinkCharacterError_writes {s t : State} (h : execLinkCharacterError s = .next t) :
    Writes .linkCharacterError (TakesKey s .linkCharacterError) s.unit t.unit :=
  writes_unlessReset h (writes_ite fun _ => writes_handLinkDrop _)

theorem execControllerSilence_writes {s t : State} (h : execControllerSilence s = .next t) :
    Writes .controllerSilence (TakesKey s .controllerSilence) s.unit t.unit := by
  have : Fact (writesEntries .controllerSilence = true) := ⟨rfl⟩
  simp only [execControllerSilence] at h
  refine writes_unlessReset h (writes_ite fun _ => ?_)
  refine .trans (.trans ?_ (writes_silenceGrant _)) (writes_sendTable_one trivial _)
  exact .head (.silence true none _) (.head (.count .controllerSilences _) (.single (.flag .controllerSilent _)))

theorem execControllerMessageSent_writes {s t : State} (h : execControllerMessageSent s = .next t) :
    Writes .controllerMessageSent (TakesKey s .controllerMessageSent) s.unit t.unit := by
  simp only [execControllerMessageSent] at h
  refine writes_unlessReset h ?_
  split
  · exact .refl
  · exact .single (.sent _)

theorem execQuietWaitEnd_writes (report : LineReport) {s t : State} (h : execQuietWaitEnd report s = .next t) :
    Writes (.quietWaitEnd report) (TakesKey s (.quietWaitEnd report)) s.unit t.unit := by
  simp only [execQuietWaitEnd] at h
  refine writes_unlessReset h ?_
  split
  · refine .single (.port _ _ fun hq => ?_)
    dsimp only
    obtain ⟨-, hqueue, -⟩ := advanceTimer_timingOnly report s.unit.port
    split
    all_goals
      change FramesOk (advanceTimer report s.unit.port).queue
      rw [hqueue]
      exact hq
  · exact .refl

theorem execAttemptStart_writes (report : LineReport) {s t : State} (h : execAttemptStart report s = .next t) :
    Writes (.attemptStart report) (TakesKey s (.attemptStart report)) s.unit t.unit := by
  simp only [execAttemptStart] at h
  refine writes_unlessReset h ?_
  split
  case h_1 =>
    refine .head (writes_timing (advanceTimer_timingOnly report) _) (writes_ite fun _ => ?_)
    exact (writes_applyBudget _).trans (writes_beginAttempt _)
  all_goals exact .refl

theorem execStartMarkDetected_writes {s t : State} (h : execStartMarkDetected s = .next t) :
    Writes .startMarkDetected (TakesKey s .startMarkDetected) s.unit t.unit := by
  simp only [execStartMarkDetected] at h
  refine writes_unlessReset h ?_
  split
  · exact .single (.port _ _ id)
  · exact .refl

theorem execFrameReceived_writes (header : Half) (payload : List Byte) (check : Half) {s t : State}
    (h : execFrameReceived header payload check s = .next t) :
    Writes (.frameReceived header payload check) (TakesKey s (.frameReceived header payload check)) s.unit t.unit :=
  writes_unlessReset h (writes_ite fun _ => writes_receiveFrame _ _ _ rfl _)

theorem execFrameMalformed_writes {s t : State} (h : execFrameMalformed s = .next t) :
    Writes .frameMalformed (TakesKey s .frameMalformed) s.unit t.unit :=
  writes_unlessReset h (writes_ite fun _ => writes_dropMalformed frameBroken_timingOnly _)

theorem execArbitrationLoss_writes {s t : State} (h : execArbitrationLoss s = .next t) :
    Writes .arbitrationLoss (TakesKey s .arbitrationLoss) s.unit t.unit := by
  simp only [execArbitrationLoss] at h
  refine writes_unlessReset h ?_
  split
  case h_1 => exact .tail (.head (writes_timing edgeObserved_timingOnly _) (writes_loseAttempt _ _)) (.count _ _)
  all_goals exact .refl

theorem execArbitrationWon_writes {s t : State} (h : execArbitrationWon s = .next t) :
    Writes .arbitrationWon (TakesKey s .arbitrationWon) s.unit t.unit := by
  simp only [execArbitrationWon] at h
  refine writes_unlessReset h ?_
  split
  case h_1 => exact .single (.port _ _ id)
  all_goals exact .refl

theorem execLineFault_writes {s t : State} (h : execLineFault s = .next t) :
    Writes .lineFault (TakesKey s .lineFault) s.unit t.unit := by
  simp only [execLineFault] at h
  refine writes_unlessReset h ?_
  split
  case h_1 => exact .tail (writes_loseAttempt _ _) (.count _ _)
  case h_2 => exact .tail (writes_loseAttempt _ _) (.count _ _)
  all_goals exact .refl

theorem execSendComplete_writes {s t : State} (h : execSendComplete s = .next t) :
    Writes .sendComplete (TakesKey s .sendComplete) s.unit t.unit := by
  simp only [execSendComplete] at h
  refine writes_unlessReset h ?_
  split
  case h_1 =>
    refine .tail ?_ (.count _ _)
    exact .single (.port _ _ fun hq => framesOk_sublist hq List.filter_sublist)
  all_goals exact .refl

theorem execPassageRequest_writes {s t : State} (h : execPassageRequest s = .next t) :
    Writes .passageRequest (TakesKey s .passageRequest) s.unit t.unit := by
  simp only [execPassageRequest] at h
  refine writes_unlessReset h ?_
  split
  · exact .head (.handler (popHandlerRequest s.unit).handler _ fun _ hf => .inl hf) (writes_handleRequest _ _)
  · exact .refl

theorem execWithdrawRequest_writes {s t : State} (h : execWithdrawRequest s = .next t) :
    Writes .withdrawRequest (TakesKey s .withdrawRequest) s.unit t.unit := by
  simp only [execWithdrawRequest] at h
  refine writes_unlessReset h ?_
  split
  · exact .head (.handler (popHandlerRequest s.unit).handler _ fun _ hf => .inl hf) (writes_handleRequest _ _)
  · exact .refl

theorem execPassageReceived_writes {s t : State} (h : execPassageReceived s = .next t) :
    Writes .passageReceived (TakesKey s .passageReceived) s.unit t.unit := by
  simp only [execPassageReceived] at h
  refine writes_unlessReset h ?_
  split
  · exact .head (.handler _ _ fun _ hf => .inl (List.mem_of_mem_tail hf)) (writes_handleFrame (.inl (.inl rfl)) _)
  · exact .refl

theorem execWithdrawReceived_writes {s t : State} (h : execWithdrawReceived s = .next t) :
    Writes .withdrawReceived (TakesKey s .withdrawReceived) s.unit t.unit := by
  simp only [execWithdrawReceived] at h
  refine writes_unlessReset h ?_
  split
  · exact .head (.handler _ _ fun _ hf => .inl (List.mem_of_mem_tail hf)) (writes_handleFrame (.inr ⟨_, _, rfl⟩) _)
  · exact .refl

theorem execBeaconReceived_writes {s t : State} (h : execBeaconReceived s = .next t) :
    Writes .beaconReceived (TakesKey s .beaconReceived) s.unit t.unit := by
  simp only [execBeaconReceived] at h
  refine writes_unlessReset h ?_
  split
  · exact .refl
  · exact .head (writes_setClock rfl rfl) (writes_handleBeacon rfl _ _)

theorem execBeaconTimer_writes {s t : State} (h : execBeaconTimer s = .next t) :
    Writes .beaconTimer (TakesKey s .beaconTimer) s.unit t.unit := by
  simp only [execBeaconTimer] at h
  refine writes_unlessReset h (writes_ite fun _ => ?_)
  refine .trans ?_ (writes_offerFrame (fun _ => rfl) _)
  exact .single (.clock _ _ rfl rfl rfl)

theorem execAcquisitionWaitEnd_writes {s t : State} (h : execAcquisitionWaitEnd s = .next t) :
    Writes .acquisitionWaitEnd (TakesKey s .acquisitionWaitEnd) s.unit t.unit :=
  writes_unlessReset h (writes_ite fun _ => writes_enterFree rfl _)

theorem execReferenceStale_writes {s t : State} (h : execReferenceStale s = .next t) :
    Writes .referenceStale (TakesKey s .referenceStale) s.unit t.unit :=
  writes_unlessReset h (writes_ite fun _ => writes_enterHoldover rfl _)

theorem execHoldoverLimit_writes {s t : State} (h : execHoldoverLimit s = .next t) :
    Writes .holdoverLimit (TakesKey s .holdoverLimit) s.unit t.unit :=
  writes_unlessReset h (writes_ite fun _ => writes_enterFree rfl _)

theorem execLowerRecordStale_writes {s t : State} (h : execLowerRecordStale s = .next t) :
    Writes .lowerRecordStale (TakesKey s .lowerRecordStale) s.unit t.unit :=
  writes_unlessReset h (writes_ite fun _ => writes_enterFree rfl _)

theorem execDetStartByte_writes {s t : State} (h : execDetStartByte s = .next t) :
    Writes .detStartByte (TakesKey s .detStartByte) s.unit t.unit :=
  writes_unlessReset h (writes_ite fun _ => writes_detectionByte _ _)

theorem execLinkStartByte_writes {s t : State} (h : execLinkStartByte s = .next t) :
    Writes .linkStartByte (TakesKey s .linkStartByte) s.unit t.unit :=
  have : Fact (writesEntries .linkStartByte = true) := ⟨rfl⟩
  writes_unlessReset h (writes_ite fun _ => writes_linkByte (.inr (.inl rfl)) _ _)

theorem execPulseNotFrame_writes {s t : State} (h : execPulseNotFrame s = .next t) :
    Writes .pulseNotFrame (TakesKey s .pulseNotFrame) s.unit t.unit := by
  simp only [execPulseNotFrame] at h
  refine writes_unlessReset h ?_
  split
  · exact .single (writes_timing edgeObserved_timingOnly _)
  · exact .refl

theorem execClearFlagsPending_writes (byte : PendingByte) {s t : State} (h : execClearFlagsPending byte s = .next t) :
    Writes (.clearFlagsPending byte) (TakesKey s (.clearFlagsPending byte)) s.unit t.unit := by
  refine writes_maintenance h fun m => ?_
  split
  · split
    · exact keepOpen_keeps (takeCommand 0x03 m.status m)
    · exact ⟨rfl, rfl⟩
  · split
    · split <;> exact ⟨rfl, rfl⟩
    · exact ⟨rfl, rfl⟩

theorem execEnablesFirstByteWrite_writes (first : Byte) {s t : State} (h : execEnablesFirstByteWrite first s = .next t) :
    Writes (.enablesFirstByteWrite first) (TakesKey s (.enablesFirstByteWrite first)) s.unit t.unit := by
  refine writes_maintenance h fun m => ?_
  split
  · exact keepOpen_keeps (afterByte 0x0C m)
  · exact ⟨rfl, rfl⟩

/-- What every command but HARD_RESET writes. -/
theorem exec_writes {c : Instr} {s t : State} (h : exec c s = .next t) (hc : c ≠ .hardReset) :
    Writes c (TakesKey s c) s.unit t.unit := by
  cases c with
  | hardReset => exact absurd rfl hc
  | resetRelease madr n => exact execResetRelease_writes _ _ h
  | loadFault => exact execLoadFault_writes h
  | esclHoldTimeout => exact execEsclHoldTimeout_writes h
  | imageMarkRead mark => exact execImageMarkRead_writes _ h
  | identityBlockRead station rate site0 site1 => exact execIdentityBlockRead_writes _ _ _ _ h
  | parameterBlockRead mark block => exact execParameterBlockRead_writes _ _ h
  | tableMarkRead mark n => exact execTableMarkRead_writes _ _ h
  | tableRecordRead type body => exact execTableRecordRead_writes _ _ h
  | maintTransferStart address direction => exact execMaintTransferStart_writes _ _ h
  | maintTransferEnd => exact execMaintTransferEnd_writes h
  | internalAddressWrite address => exact execInternalAddressWrite_writes _ h
  | attentionEnablesWrite second => exact execAttentionEnablesWrite_writes _ h
  | reload n => exact execReload_writes _ h
  | clearCounters => exact execClearCounters_writes h
  | clearFlags second => exact execClearFlags_writes _ h
  | commandUnknown code => exact execCommandUnknown_writes _ h
  | maintWriteIgnored value => exact execMaintWriteIgnored_writes _ h
  | readLatchFirstByte => exact execReadLatchFirstByte_writes h
  | readLatchSecondByte => exact execReadLatchSecondByte_writes h
  | detMessageReceived payload check => exact execDetMessageReceived_writes _ _ h
  | detLengthDrop length => exact execDetLengthDrop_writes _ h
  | detGapAbandon => exact execDetGapAbandon_writes h
  | detCharacterError => exact execDetCharacterError_writes h
  | checkIn => exact execCheckIn_writes h
  | checkOut => exact execCheckOut_writes h
  | cancel => exact execCancel_writes h
  | forecastRequest => exact execForecastRequest_writes h
  | invalidationRequest => exact execInvalidationRequest_writes h
  | evaluation => exact execEvaluation_writes h
  | silenceRequest => exact execSilenceRequest_writes h
  | entryExpiry slot => exact execEntryExpiry_writes _ h
  | untimedExpiry slot => exact execUntimedExpiry_writes _ h
  | recentDepartureLapse => exact execRecentDepartureLapse_writes h
  | joinRequest => exact execJoinRequest_writes h
  | replyWaitExpiry => exact execReplyWaitExpiry_writes h
  | grantDeadline => exact execGrantDeadline_writes h
  | controllerMessageReceived payload check => exact execControllerMessageReceived_writes _ _ h
  | linkLengthDrop length => exact execLinkLengthDrop_writes _ h
  | linkGapAbandon => exact execLinkGapAbandon_writes h
  | linkCharacterError => exact execLinkCharacterError_writes h
  | controllerSilence => exact execControllerSilence_writes h
  | controllerMessageSent => exact execControllerMessageSent_writes h
  | quietWaitEnd report => exact execQuietWaitEnd_writes _ h
  | attemptStart report => exact execAttemptStart_writes _ h
  | startMarkDetected => exact execStartMarkDetected_writes h
  | frameReceived header payload check => exact execFrameReceived_writes _ _ _ h
  | frameMalformed => exact execFrameMalformed_writes h
  | arbitrationLoss => exact execArbitrationLoss_writes h
  | arbitrationWon => exact execArbitrationWon_writes h
  | lineFault => exact execLineFault_writes h
  | sendComplete => exact execSendComplete_writes h
  | passageRequest => exact execPassageRequest_writes h
  | withdrawRequest => exact execWithdrawRequest_writes h
  | passageReceived => exact execPassageReceived_writes h
  | withdrawReceived => exact execWithdrawReceived_writes h
  | beaconReceived => exact execBeaconReceived_writes h
  | beaconTimer => exact execBeaconTimer_writes h
  | acquisitionWaitEnd => exact execAcquisitionWaitEnd_writes h
  | referenceStale => exact execReferenceStale_writes h
  | holdoverLimit => exact execHoldoverLimit_writes h
  | lowerRecordStale => exact execLowerRecordStale_writes h
  | detStartByte => exact execDetStartByte_writes h
  | linkStartByte => exact execLinkStartByte_writes h
  | pulseNotFrame => exact execPulseNotFrame_writes h
  | clearFlagsPending byte => exact execClearFlagsPending_writes _ h
  | enablesFirstByteWrite first => exact execEnablesFirstByteWrite_writes _ h

end Sys2Proof.Machine
end

section
/-! What follows for whole steps from the writes that make them up: the bounds of the collections (O54), the uniqueness of keys (O55),
counters and flags (O58) and the single writers (O59). -/

namespace Sys2Proof.Machine

/-! ### Steps and writes -/

/-- A step runs a command on the unit, or lets a ds pass. -/
theorem step_cases {s t : State} (h : step s = .next t) :
    (∃ (c : Instr) (r : State), r.unit = s.unit ∧ exec c r = .next t) ∨ t.unit = tick s.unit := by
  unfold step at h
  split at h
  next c rest _ => exact .inl ⟨c, { s with pending := rest }, rfl, h⟩
  next =>
    unfold idle at h
    split at h
    next c _ => exact .inl ⟨c, s, rfl, h⟩
    next => injection h with h; exact .inr (h ▸ rfl)

/-- HARD_RESET leads to the hard-reset state. -/
theorem execHardReset_unit {s t : State} (h : exec .hardReset s = .next t) : t.unit = Bn24.reset := by
  injection h with h
  exact h ▸ rfl

/-- What every elementary write keeps, a series of writes keeps. -/
theorem writes_keep {c : Instr} {K : Key → Prop} {P : Bn24 → Prop} (hwrite : ∀ u v, Write c K u v → P u → P v) {u v : Bn24}
    (h : Writes c K u v) (hu : P u) : P v := by
  induction h with
  | refl => exact hu
  | tail _ hw ih => exact hwrite _ _ hw ih

/-- What holds in the hard-reset state and is kept by a ds and by every elementary write is kept by every step. -/
theorem step_keeps {P : Bn24 → Prop} (hreset : P .reset) (htick : ∀ u, P u → P (tick u))
    (hwrite : ∀ c K u v, Write c K u v → P u → P v) {s t : State} (h : step s = .next t) (hs : P s.unit) : P t.unit := by
  rcases step_cases h with ⟨c, r, hr, h⟩ | ht
  · by_cases hc : c = .hardReset
    · subst hc
      exact execHardReset_unit h ▸ hreset
    · exact writes_keep (hwrite c _) (exec_writes h hc) (hr ▸ hs)
  · exact ht ▸ htick _ hs

/-! ### The collections -/

theorem write_recentOk (c : Instr) (K : Key → Prop) (u v : Bn24) (h : Write c K u v) (hu : RecentOk u) : RecentOk v := by
  obtain ⟨hlen, hnodup⟩ := hu
  cases h
  case purge =>
    exact ⟨(List.length_filter_le ..).trans hlen, (List.filter_sublist.map Departure.key).nodup hnodup⟩
  case retire => exact ⟨withDeparture_length .., withDeparture_nodup _ _ _ hnodup⟩
  case depart => exact ⟨withDeparture_length .., withDeparture_nodup _ _ _ hnodup⟩
  case emptyTable => exact ⟨Nat.zero_le _, .nil⟩
  case link => rw [handLink_frame]; exact ⟨hlen, hnodup⟩
  all_goals exact ⟨hlen, hnodup⟩

theorem write_inboxOk (c : Instr) (K : Key → Prop) (u v : Bn24) (h : Write c K u v) (hu : InboxOk u) : InboxOk v := by
  cases h
  case inbox ib hlen => exact hlen hu
  case link => rw [handLink_frame]; exact hu
  all_goals exact hu

theorem write_peersOk (c : Instr) (K : Key → Prop) (u v : Bn24) (h : Write c K u v) (hu : PeersOk u) : PeersOk v := by
  cases h
  case clock k _ hoffset hpeers => unfold PeersOk; exact hpeers ▸ hu
  case beacon k hc hpeers => exact hpeers hu
  case link => rw [handLink_frame]; exact hu
  all_goals exact hu

theorem write_queueOk (c : Instr) (K : Key → Prop) (u v : Bn24) (h : Write c K u v) (hu : QueueOk u) : QueueOk v := by
  cases h
  case port p hqueue => exact hqueue hu
  case link => rw [handLink_frame]; exact hu
  all_goals exact hu

/-- No flag has one of the bits 10 to 15. -/
theorem flagBit_high (f : Flag) : (1#16 <<< f.bit) &&& 0xFC00 = 0 := by cases f <;> decide

/-- A mask picks the bits of two words one by one. -/
theorem or_and_mask (a b mask : Half) : (a ||| b) &&& mask = (a &&& mask) ||| (b &&& mask) := by
  ext i
  simp [Bool.and_or_distrib_right]

theorem write_flagBitsOk (c : Instr) (K : Key → Prop) (u v : Bn24) (h : Write c K u v) (hu : FlagBitsOk u) : FlagBitsOk v := by
  unfold FlagBitsOk at *
  cases h
  case flag f => rw [flag_maint_flags, or_and_mask, hu, flagBit_high]; rfl
  case maint m _ hflags => exact hflags ▸ hu
  case clearCounters m _ hflags => exact hflags ▸ hu
  case clearFlags m b mask _ _ hflags =>
    change m.flags &&& _ = _
    rw [hflags, BitVec.and_assoc, BitVec.and_comm mask, ← BitVec.and_assoc, hu]
    exact BitVec.zero_and
  case link => rw [handLink_frame]; exact hu
  all_goals exact hu

/-- The id after one is never 0 (R77). -/
theorem nextRequestId_ne_zero (id : Byte) : nextRequestId id ≠ 0 := by
  unfold nextRequestId
  split
  next => decide
  next h => intro h0; exact h (by bv_omega)

theorem write_linkOk (c : Instr) (K : Key → Prop) (u v : Bn24) (h : Write c K u v) (hu : LinkOk u) : LinkOk v := by
  obtain ⟨hid, hqueue⟩ := hu
  cases h
  case nextId => exact ⟨nextRequestId_ne_zero _, hqueue⟩
  case link m =>
    refine ⟨?_, fun h => absurd h (handLink_sending m u)⟩
    rw [handLink_frame]
    exact hid
  case sent =>
    refine ⟨hid, fun h => ?_⟩
    cases hw : u.controller.waiting <;> simp_all
  all_goals exact ⟨hid, hqueue⟩

theorem write_detFramingOk (c : Instr) (K : Key → Prop) (u v : Bn24) (h : Write c K u v) (hu : FramingOk u.detection.framing) :
    FramingOk v.detection.framing := by
  cases h
  case detFraming f hf => exact hf hu
  case link => rw [handLink_frame]; exact hu
  all_goals exact hu

theorem write_linkFramingOk (c : Instr) (K : Key → Prop) (u v : Bn24) (h : Write c K u v) (hu : FramingOk u.controller.framing) :
    FramingOk v.controller.framing := by
  cases h
  case linkFraming f hf => exact hf hu
  case link => rw [handLink_frame]; exact hu
  all_goals exact hu

/-- A ds changes local time alone. -/
theorem tick_frame (u : Bn24) : tick u = { u with localTime := (tick u).localTime } := by
  unfold tick
  split <;> rfl

/-- Settles O54: each bound is kept by every elementary write (`step_keeps`). -/
theorem everyStepKeepsTheCollections : Obligations.EveryStepKeepsTheCollections := by
  unfold Obligations.EveryStepKeepsTheCollections
  intro s t h
  refine ⟨?recent, ?inbox, ?peers, ?queue, ?flags, ?link, ?detection, ?controller⟩
  case recent => exact step_keeps (by decide) (fun u hu => by rw [tick_frame]; exact hu) write_recentOk h
  case inbox => exact step_keeps (by decide) (fun u hu => by rw [tick_frame]; exact hu) write_inboxOk h
  case peers => exact step_keeps (by decide) (fun u hu => by rw [tick_frame]; exact hu) write_peersOk h
  case queue => exact step_keeps framesOk_nil (fun u hu => by rw [tick_frame]; exact hu) write_queueOk h
  case flags => exact step_keeps (by decide) (fun u hu => by rw [tick_frame]; exact hu) write_flagBitsOk h
  case link => exact step_keeps (by decide) (fun u hu => by rw [tick_frame]; exact hu) write_linkOk h
  case detection =>
    exact step_keeps (P := fun u => FramingOk u.detection.framing) trivial (fun u hu => by rw [tick_frame]; exact hu)
      write_detFramingOk h
  case controller =>
    exact step_keeps (P := fun u => FramingOk u.controller.framing) trivial (fun u hu => by rw [tick_frame]; exact hu)
      write_linkFramingOk h

/-! ### Keys -/

/-- A change of the table that renames no entry keeps the keys unique: what stands in a slot stood there under the same key, and a
key of the recent-departures list that is in the table stood there too. -/
theorem keysOk_of_same {u v : Bn24} (hu : KeysOk u)
    (hslots : ∀ i : SlotIx, ∀ f ∈ entryIn v i, ∃ e ∈ entryIn u i, e.key = f.key)
    (hrecent : ∀ i : SlotIx, ∀ f ∈ entryIn v i, inRecent v f.key = true → inRecent u f.key = true) : KeysOk v := by
  obtain ⟨hunique, habsent⟩ := hu
  refine ⟨fun i j e he f hf hef => ?_, fun i f hf => ?_⟩
  · obtain ⟨e', he', hke⟩ := hslots i e he
    obtain ⟨f', hf', hkf⟩ := hslots j f hf
    exact hunique i j e' he' f' hf' (hke.trans (hef.trans hkf.symm))
  · obtain ⟨e, he, hk⟩ := hslots i f hf
    rw [Bool.eq_false_iff]
    intro hin
    have habs := habsent i e he
    rw [hk, hrecent i f hf hin] at habs
    cases habs

/-- An empty table holds no key twice. -/
theorem keysOk_of_empty {u : Bn24} (h : ∀ i : SlotIx, entryIn u i = none) : KeysOk u := by
  refine ⟨fun i j e he => ?_, fun i e he => ?_⟩
  · rw [h i] at he; cases he
  · rw [h i] at he; cases he

/-- A departure of one key puts no other key into the list. -/
theorem inRecent_addDeparture {u : Bn24} {k l : Key} (hne : l ≠ k) (h : inRecent (addDeparture k u) l = true) :
    inRecent u l = true := by
  obtain ⟨d, hd, hk⟩ := (inRecent_iff _ _).mp h
  rcases mem_withDeparture k u.localTime u.table.recent d hd with ⟨hold, -⟩ | rfl
  · exact (inRecent_iff _ _).mpr ⟨d, hold, hk⟩
  · exact absurd hk.symm hne

theorem write_keysOk (c : Instr) (K : Key → Prop) (u v : Bn24) (h : Write c K u v) (hu : KeysOk u) : KeysOk v := by
  cases h
  case serve slots _ h =>
    refine keysOk_of_same hu (fun i f hf => ?_) fun i f _ => id
    have hrel := h i
    rw [Option.mem_def.mp hf] at hrel
    cases hi : entryIn u i with
    | none => rw [hi] at hrel; cases hrel
    | some e =>
      rw [hi] at hrel
      cases hrel with
      | some hsame => exact ⟨e, rfl, hsame.1⟩
  case rewrite i e f _ hkey hK he =>
    refine keysOk_of_same hu (fun j g hg => ?_) fun i f _ => id
    rw [entryIn_setSlot] at hg
    split at hg
    next hij => subst hij; cases hg; exact ⟨e, he, hkey.symm⟩
    next => exact ⟨g, hg, rfl⟩
  case place i e _ hK hempty hnew hrecent =>
    obtain ⟨hunique, habsent⟩ := hu
    refine ⟨fun j k f hf g hg hfg => ?_, fun j f hf => ?_⟩
    · rw [entryIn_setSlot] at hf hg
      split at hf <;> split at hg
      next hj hk => exact hj.symm.trans hk
      next => cases hf; exact absurd hfg.symm (hnew k g hg)
      next => cases hg; exact absurd hfg (hnew j f hf)
      next => exact hunique j k f hf g hg hfg
    · rw [entryIn_setSlot] at hf
      split at hf
      next => cases hf; exact hrecent
      next => exact habsent j f hf
  case remove i _ _ =>
    refine keysOk_of_same hu (fun j g hg => ?_) fun i f _ => id
    rw [entryIn_setSlot] at hg
    split at hg
    next => cases hg
    next => exact ⟨g, hg, rfl⟩
  case retire i e _ _ he =>
    have kept (j : SlotIx) (g : Entry) (hg : g ∈ entryIn (addDeparture e.key (setSlot i none u)) j) :
        i ≠ j ∧ entryIn u j = some g := by
      change g ∈ entryIn (setSlot i none u) j at hg
      rw [entryIn_setSlot] at hg
      split at hg
      next => cases hg
      next hij => exact ⟨hij, hg⟩
    refine keysOk_of_same hu (fun j g hg => ⟨g, (kept j g hg).2, rfl⟩) fun j g hg hin => ?_
    obtain ⟨hij, hgj⟩ := kept j g hg
    have hne : g.key ≠ e.key := fun hk => hij (hu.1 i j e he g hgj hk.symm)
    exact inRecent_addDeparture (u := setSlot i none u) hne hin
  case depart k hnone =>
    refine keysOk_of_same hu (fun j g hg => ⟨g, hg, rfl⟩) fun j g hg hin => ?_
    exact inRecent_addDeparture (hnone j g hg) hin
  case purge =>
    refine keysOk_of_same hu (fun j g hg => ⟨g, hg, rfl⟩) fun j g _ hin => ?_
    obtain ⟨d, hd, hk⟩ := (inRecent_iff _ _).mp hin
    exact (inRecent_iff _ _).mpr ⟨d, (List.mem_filter.mp hd).1, hk⟩
  case emptyTable =>
    have hempty (i : SlotIx) :
        entryIn { u with table.slots := Vector.replicate 24 none, table.recent := [] } i = none := by simp [entryIn]
    exact keysOk_of_empty hempty
  case link => rw [handLink_frame]; exact hu
  all_goals exact hu

/-- Settles O55: the uniqueness of keys is kept by every elementary write (`step_keeps`). -/
theorem everyStepKeepsKeysUnique : Obligations.EveryStepKeepsKeysUnique := by
  unfold Obligations.EveryStepKeepsKeysUnique
  intro s t hs h
  have hreset : KeysOk Bn24.reset := by
    have hempty (i : SlotIx) : entryIn Bn24.reset i = none := by simp [entryIn, Bn24.reset]
    exact keysOk_of_empty hempty
  exact step_keeps hreset (fun u hu => by rw [tick_frame]; exact hu) write_keysOk h hs

/-! ### Counters and flags -/

theorem write_counters {c : Instr} (hc : c ≠ .clearCounters) (k : Counter) {K : Key → Prop} {u v : Bn24} (h : Write c K u v) :
    (counterOf k u).toNat ≤ (counterOf k v).toNat := by
  cases h
  case count l => exact counterOf_le_count l k u
  case maint m hcounters _ => exact le_of_eq (by rw [counterOf, counterOf, hcounters])
  case clearCounters m hclear _ => exact absurd hclear hc
  case clearFlags m b mask _ hcounters _ => exact le_of_eq (by rw [counterOf, counterOf, hcounters])
  case link m => rw [handLink_frame]; exact le_rfl
  all_goals exact le_rfl

theorem write_flags {c : Instr} (hc : ∀ b, c ≠ .clearFlags b) (f : Flag) {K : Key → Prop} {u v : Bn24} (h : Write c K u v)
    (hf : flagSet f u = true) : flagSet f v = true := by
  cases h
  case flag g => rw [flagSet_flag, hf, Bool.or_true]
  case maint m _ hflags => rw [flagSet, hflags]; exact hf
  case clearCounters m _ hflags => rw [flagSet, hflags]; exact hf
  case clearFlags m b mask hclear _ _ => exact absurd hclear (hc b)
  case link m => rw [handLink_frame]; exact hf
  all_goals exact hf

/-- Settles O58: every elementary write raises counters or leaves them, and sets flags or leaves them, but for the two clearing
writes, which only their commands make. -/
theorem countersAndFlagsOnlyRise : Obligations.CountersAndFlagsOnlyRise := by
  unfold Obligations.CountersAndFlagsOnlyRise
  intro c s t h hreset
  have hwrites := exec_writes h hreset
  refine ⟨fun hc k => ?_, fun hc f hf => ?_⟩
  · exact writes_keep (P := fun v => (counterOf k s.unit).toNat ≤ (counterOf k v).toNat)
      (fun _ _ hw ih => ih.trans (write_counters hc k hw)) hwrites le_rfl
  · exact writes_keep (P := fun v => flagSet f v = true) (fun _ _ hw ih => write_flags hc f hw ih) hwrites hf

/-! ### Single writers -/

theorem write_localTime {c : Instr} {K : Key → Prop} {u v : Bn24} (h : Write c K u v) : v.localTime = u.localTime := by
  cases h
  case link => rw [handLink_frame]
  all_goals rfl

theorem write_offset_peers {c : Instr} (hc : c ≠ .beaconReceived) {K : Key → Prop} {u v : Bn24} (h : Write c K u v) :
    v.clock.offset = u.clock.offset ∧ v.clock.peers = u.clock.peers := by
  cases h
  case clock k _ hoffset hpeers => exact ⟨hoffset, hpeers⟩
  case beacon k hbeacon _ => exact absurd hbeacon hc
  case link => rw [handLink_frame]; exact ⟨rfl, rfl⟩
  all_goals exact ⟨rfl, rfl⟩

theorem write_phase {c : Instr} (hc : ¬ WritesPhase c) {K : Key → Prop} {u v : Bn24} (h : Write c K u v) :
    v.controller.phase = u.controller.phase := by
  cases h
  case phase w hphase => exact absurd hphase hc
  case link => rw [handLink_frame]
  all_goals rfl

theorem write_evict {c : Instr} (hc : ¬ (c = .checkIn ∨ c = .forecastRequest)) {K : Key → Prop} {u v : Bn24}
    (h : Write c K u v) : v.table.evict = u.table.evict := by
  cases h
  case evict i hevict => exact absurd hevict hc
  case link => rw [handLink_frame]
  all_goals rfl

theorem write_inForce {c : Instr} (hc : ¬ EndsLoad c) {K : Key → Prop} {u v : Bn24} (h : Write c K u v) :
    v.loader.inForce = u.loader.inForce := by
  cases h
  case loader l _ hforce => exact hforce
  case install l hends => exact absurd hends hc
  case link => rw [handLink_frame]
  all_goals rfl

/-- A value that no elementary write changes is the same after a series of them. -/
theorem writes_same {α : Type} (value : Bn24 → α) {c : Instr} {K : Key → Prop}
    (hwrite : ∀ u v, Write c K u v → value v = value u) {u v : Bn24} (h : Writes c K u v) : value v = value u :=
  writes_keep (P := fun w => value w = value u) (fun _ _ hw ih => (hwrite _ _ hw).trans ih) h rfl

/-- What RUNNING begins with keeps the configuration just put in force (R190). -/
theorem clockStart_keeps (u : Bn24) :
    (clockStart u).loader = u.loader ∧ (clockStart u).maint.enables = u.maint.enables := by
  have holdover (w : Bn24) : (enterHoldover w).loader = w.loader ∧ (enterHoldover w).maint.enables = w.maint.enables := by
    unfold enterHoldover leftState leftFine
    split
    · split <;> exact ⟨rfl, rfl⟩
    all_goals exact ⟨rfl, rfl⟩
  unfold clockStart
  dsimp only
  split
  · split
    · unfold resumeLock
      dsimp only
      split
      · exact ⟨rfl, rfl⟩
      · exact ⟨rfl, rfl⟩
      · split
        · exact holdover _
        · exact ⟨rfl, rfl⟩
      · split
        · exact holdover _
        · exact ⟨rfl, rfl⟩
      · split <;> exact ⟨rfl, rfl⟩
      · split <;> exact ⟨rfl, rfl⟩
    · unfold leftState leftFine
      split
      · split <;> exact ⟨rfl, rfl⟩
      all_goals exact ⟨rfl, rfl⟩
  · exact ⟨rfl, rfl⟩

/-- A load that ends in RUNNING puts its working copy in force, the attention enables with it (R186, R190). -/
theorem endRunning_installs (u : Bn24) :
    (endRunning u).loader.run = .running
      ∧ (endRunning u).maint.enables = (endRunning u).loader.inForce.params.enables := by
  obtain ⟨hloader, henables⟩ := clockStart_keeps (startPort (startReceivers (installConfiguration (settleHandler u))))
  unfold endRunning
  rw [hloader, henables]
  exact ⟨rfl, rfl⟩

/-- A record read leaves the configuration in force or ends the load in RUNNING (R187, R188). -/
theorem readRecord_cases (type : Byte) (body : List Byte) (remaining position : Nat) (u : Bn24) :
    ((readRecord type body remaining position u).loader.inForce = u.loader.inForce
        ∧ (readRecord type body remaining position u).table = u.table)
      ∨ ∃ w, readRecord type body remaining position u = endRunning w ∧ w.table = u.table ∧ w.handler = u.handler := by
  have taken : (takeOrSkip type body u).loader.inForce = u.loader.inForce ∧ (takeOrSkip type body u).table = u.table
      ∧ (takeOrSkip type body u).handler = u.handler := by
    unfold takeOrSkip
    split <;> exact ⟨rfl, rfl, rfl⟩
  obtain ⟨hforce, htable, hhandler⟩ := taken
  unfold readRecord
  split
  · exact .inr ⟨_, rfl, rfl, rfl⟩
  · split
    · exact .inr ⟨_, rfl, rfl, rfl⟩
    · unfold nextRecord
      split
      · exact .inr ⟨_, rfl, htable, hhandler⟩
      · split
        · exact .inr ⟨_, rfl, htable, hhandler⟩
        · exact .inl ⟨hforce, htable⟩

/-- The commands that may end a load change the configuration in force only where they end it in RUNNING. -/
theorem endsLoad_inForce {c : Instr} {s t : State} (h : exec c s = .next t) (hc : EndsLoad c)
    (hne : t.unit.loader.inForce ≠ s.unit.loader.inForce) : s.unit.loader.phase ≠ .none ∧ ∃ w, t.unit = endRunning w := by
  rcases hc with ⟨mark, n, rfl⟩ | ⟨type, body, rfl⟩
  · simp only [exec, execTableMarkRead] at h
    obtain ⟨-, ⟨-, ht⟩ | ⟨-, ht⟩⟩ := unlessReset_next h
    · exact absurd (by rw [ht]) hne
    · split at ht
      case h_1 hphase =>
        refine ⟨by rw [hphase]; exact nofun, ?_⟩
        split at ht
        · exact ⟨_, ht⟩
        · exact absurd (by rw [ht]; rfl) hne
      all_goals exact absurd (by rw [ht]) hne
  · simp only [exec, execTableRecordRead] at h
    obtain ⟨-, ⟨-, ht⟩ | ⟨-, ht⟩⟩ := unlessReset_next h
    · exact absurd (by rw [ht]) hne
    · split at ht
      case h_1 remaining position hphase =>
        refine ⟨by rw [hphase]; exact nofun, ?_⟩
        rcases readRecord_cases type body.toList remaining position s.unit with ⟨hsame, -⟩ | ⟨w, hw, -⟩
        · exact absurd (by rw [ht]; exact hsame) hne
        · exact ⟨w, ht.trans hw⟩
      all_goals exact absurd (by rw [ht]) hne

/-- Settles O59: each piece of state is left by every elementary write but its owner's (`writes_same`); what changes the
configuration in force ends a load in RUNNING (`endsLoad_inForce`). -/
theorem sixPiecesOfStateHaveTheirWriters : Obligations.SixPiecesOfStateHaveTheirWriters := by
  unfold Obligations.SixPiecesOfStateHaveTheirWriters
  intro c s t h hreset
  have hwrites := exec_writes h hreset
  refine ⟨?time, fun hc => ⟨?offset, ?peers⟩, fun hmessage hstart hreload => ?phase, fun hcheckIn hforecast => ?evict,
    fun hne => ?inForce⟩
  case time => exact writes_same Bn24.localTime (fun _ _ hw => write_localTime hw) hwrites
  case offset => exact writes_same (fun w => w.clock.offset) (fun _ _ hw => (write_offset_peers hc hw).1) hwrites
  case peers => exact writes_same (fun w => w.clock.peers) (fun _ _ hw => (write_offset_peers hc hw).2) hwrites
  case phase =>
    have hnot : ¬ WritesPhase c := by
      rintro (⟨p, k, hp⟩ | hp | ⟨n, hp⟩)
      · exact hmessage p k hp
      · exact hstart hp
      · exact hreload n hp
    exact writes_same (fun w => w.controller.phase) (fun _ _ hw => write_phase hnot hw) hwrites
  case evict =>
    have hnot : ¬ (c = .checkIn ∨ c = .forecastRequest) := not_or.mpr ⟨hcheckIn, hforecast⟩
    exact writes_same (fun w => w.table.evict) (fun _ _ hw => write_evict hnot hw) hwrites
  case inForce =>
    have hends : EndsLoad c := by
      by_contra hnot
      exact hne (writes_same (fun w => w.loader.inForce) (fun _ _ hw => write_inForce hnot hw) hwrites)
    obtain ⟨hphase, w, hw⟩ := endsLoad_inForce h hends hne
    obtain ⟨hrun, henables⟩ := endRunning_installs w
    rw [hw]
    exact ⟨hrun, hphase, henables⟩

/-! ### Forecast fields -/

/-- What stands in a slot after an elementary write stood there with the same forecast fields, but for the keys written. -/
theorem write_forecasts {c : Instr} {K : Key → Prop} {u v : Bn24} (h : Write c K u v) (i : SlotIx) (f : Entry)
    (hf : entryIn v i = some f) (hK : ¬ K f.key) : ∃ e, entryIn u i = some e ∧ SameForecast e f := by
  have self (hf : entryIn u i = some f) : ∃ e, entryIn u i = some e ∧ SameForecast e f := ⟨f, hf, sameForecast_refl f⟩
  have emptied (j : SlotIx) (hf : entryIn (setSlot j none u) i = some f) : ∃ e, entryIn u i = some e ∧ SameForecast e f := by
    rw [entryIn_setSlot] at hf
    split at hf
    · cases hf
    · exact self hf
  cases h
  case serve slots _ h =>
    have hrel := h i
    rw [hf] at hrel
    cases hi : entryIn u i with
    | none => rw [hi] at hrel; cases hrel
    | some e =>
      rw [hi] at hrel
      cases hrel with
      | some hsame => exact ⟨e, rfl, hsame⟩
  case rewrite j e g _ hkey hg he =>
    rw [entryIn_setSlot] at hf
    split at hf
    · cases hf; exact absurd hg hK
    · exact self hf
  case place j e _ hg hempty hnew hrecent =>
    rw [entryIn_setSlot] at hf
    split at hf
    · cases hf; exact absurd hg hK
    · exact self hf
  case remove j _ hc => exact emptied j hf
  case retire j e _ hc he => exact emptied j hf
  case emptyTable _ hc => simp [entryIn] at hf
  case link m => rw [entryIn_handLink] at hf; exact self hf
  all_goals exact self hf

theorem writes_forecasts {c : Instr} {K : Key → Prop} {u v : Bn24} (h : Writes c K u v) (i : SlotIx) (f : Entry)
    (hf : entryIn v i = some f) (hK : ¬ K f.key) : ∃ e, entryIn u i = some e ∧ SameForecast e f := by
  induction h generalizing f with
  | refl => exact ⟨f, hf, sameForecast_refl f⟩
  | tail _ hw ih =>
    obtain ⟨g, hg, hgf⟩ := write_forecasts hw i f hf hK
    obtain ⟨e, he, heg⟩ := ih g hg (hgf.1 ▸ hK)
    exact ⟨e, he, sameForecast_trans heg hgf⟩

/-- A command that takes no entry out leaves in each slot an entry of its key. -/
theorem write_keepsKey {c : Instr} (hc : ¬ EmptiesSlots c) {K : Key → Prop} {u v : Bn24} (h : Write c K u v) (i : SlotIx)
    (e : Entry) (he : entryIn u i = some e) : ∃ f, entryIn v i = some f ∧ f.key = e.key := by
  cases h
  case serve slots _ h =>
    have hrel := h i
    rw [he] at hrel
    cases hv : entryIn { u with table.slots := slots } i with
    | none => rw [hv] at hrel; cases hrel
    | some f =>
      rw [hv] at hrel
      cases hrel with
      | some hsame => exact ⟨f, rfl, hsame.1.symm⟩
  case rewrite j g f _ hkey hg hin =>
    rw [entryIn_setSlot]
    split
    next hij =>
      subst hij
      rw [he] at hin
      cases hin
      exact ⟨f, rfl, hkey⟩
    next => exact ⟨e, he, rfl⟩
  case place j g _ hg hempty hnew hrecent =>
    rw [entryIn_setSlot]
    split
    next hij => subst hij; rw [he] at hempty; cases hempty
    next => exact ⟨e, he, rfl⟩
  case remove j _ hempties => exact absurd hempties hc
  case retire j f _ hempties _ => exact absurd hempties hc
  case emptyTable _ hempties => exact absurd hempties hc
  case link m => exact ⟨e, (entryIn_handLink m u i).trans he, rfl⟩
  all_goals exact ⟨e, he, rfl⟩

/-- The update of an entry takes none out of the table: its writes are also those of a command that empties no slot. -/
theorem rewriteEntry_keepsKeys {u : Bn24} {j : SlotIx} {old new : Entry} {stands : Bool} (h : entryIn u j = some old)
    (hkey : new.key = old.key) (i : SlotIx) (e : Entry) (he : entryIn u i = some e) :
    ∃ f, entryIn (rewriteEntry j old new stands u) i = some f ∧ f.key = e.key := by
  have : Fact (writesEntries .evaluation = true) := ⟨rfl⟩
  have hwrites : Writes .evaluation (fun _ => True) u (rewriteEntry j old new stands u) := writes_rewriteEntry h hkey trivial
  have hnot : ¬ EmptiesSlots .evaluation := by simp [EmptiesSlots]
  refine writes_keep (P := fun v => ∃ f, entryIn v i = some f ∧ f.key = e.key) (fun v w hw ⟨f, hf, hfk⟩ => ?_) hwrites
    ⟨e, he, rfl⟩
  obtain ⟨g, hg, hgk⟩ := write_keepsKey hnot hw i f hf
  exact ⟨g, hg, hgk.trans hfk⟩

/-- The fold that looks for the lowest grade ends on a candidate of its list. -/
theorem foldl_lowerGrade_mem {l : List (SlotIx × Nat)} {b : Option (SlotIx × Nat)} {c : SlotIx × Nat}
    (h : l.foldl lowerGrade b = some c) : c ∈ l ∨ b = some c := by
  induction l generalizing b with
  | nil => exact .inr h
  | cons x rest ih =>
    rcases ih h with h | h
    · exact .inl (List.mem_cons_of_mem _ h)
    · unfold lowerGrade at h
      cases b with
      | none => exact .inl (List.mem_cons.mpr (.inl (Option.some.inj h).symm))
      | some b =>
        dsimp only at h
        split at h
        · exact .inl (List.mem_cons.mpr (.inl (Option.some.inj h).symm))
        · exact .inr h

/-- The scan of R10 finds a CONFIRMED entry in WAITING, and its grade. -/
theorem lowestConfirmed_waiting {u : Bn24} {c : SlotIx × Nat} (h : lowestConfirmed u = some c) :
    ∃ e, WaitingIn u .confirmed c.1 e ∧ e.grade = c.2 :=
  (mem_confirmedWaiting u c).mp ((foldl_lowerGrade_mem h).resolve_right nofun)

/-- A new entry takes an empty slot or one of a WAITING entry, or none (R7 to R10). -/
theorem allocate_cases (new : Entry) (u : Bn24) {v : Bn24} (hv : v = allocateForecast new u ∨ v = allocateConfirmed new u) :
    v.arbiter = u.arbiter ∧ (v.table.slots = u.table.slots
      ∨ ∃ j, (∀ e ∈ entryIn u j, e.service = .waiting) ∧ v.table.slots = u.table.slots.set j (some new)) := by
  have placed {j : SlotIx} {w : Bn24} (hp : v = placeEntry j new w) (hw : w.arbiter = u.arbiter)
      (hslots : w.table.slots.set j (some new) = u.table.slots.set j (some new))
      (hwaiting : ∀ e ∈ entryIn u j, e.service = .waiting) :
      v.arbiter = u.arbiter ∧ (v.table.slots = u.table.slots
        ∨ ∃ j, (∀ e ∈ entryIn u j, e.service = .waiting) ∧ v.table.slots = u.table.slots.set j (some new)) := by
    rw [hp, placeEntry, requestEvaluation, sendTable_frame]
    exact ⟨hw, .inr ⟨j, hwaiting, hslots⟩⟩
  have empty {j : SlotIx} (hj : lowestEmpty u = some j) : ∀ e ∈ entryIn u j, e.service = .waiting := by
    rw [((lowestEmpty_eq_some u j).mp hj).1]
    exact nofun
  have victim {j : SlotIx} (hj : forecastVictim u = some j) : ∀ e ∈ entryIn u j, e.service = .waiting := by
    obtain ⟨-, -, ⟨g, hin, -, hwaiting⟩, -⟩ := (forecastVictim_eq_some u j).mp hj
    rw [hin]
    rintro _ ⟨⟩
    exact hwaiting
  have emptied (j : SlotIx) : (u.table.slots.set j none).set j (some new) = u.table.slots.set j (some new) :=
    Vector.set_set ..
  rcases hv with hv | hv
  · unfold allocateForecast at hv
    split at hv
    next j hj => exact placed hv rfl rfl (empty hj)
    next =>
      split at hv
      next j hj => exact placed hv rfl (emptied j) (victim hj)
      next => exact hv ▸ ⟨rfl, .inl rfl⟩
  · unfold allocateConfirmed at hv
    split at hv
    next j hj => exact placed hv rfl rfl (empty hj)
    next =>
      split at hv
      next j hj => exact placed hv rfl (emptied j) (victim hj)
      next =>
        split at hv
        next j n hj =>
          split at hv
          next =>
            obtain ⟨g, ⟨hin, -, hwaiting⟩, -⟩ := lowestConfirmed_waiting hj
            exact placed hv rfl (emptied j) (by rw [hin]; rintro _ ⟨⟩; exact hwaiting)
          next => exact hv ▸ ⟨rfl, .inl rfl⟩
        next => exact hv ▸ ⟨rfl, .inl rfl⟩

/-- A new entry leaves every entry that is not WAITING in its slot (R7 to R10). -/
theorem allocate_keeps {u : Bn24} {i : SlotIx} {e : Entry} (he : entryIn u i = some e) (hs : e.service ≠ .waiting)
    (new : Entry) : entryIn (allocateForecast new u) i = some e ∧ entryIn (allocateConfirmed new u) i = some e := by
  have keeps {v : Bn24} (hv : v = allocateForecast new u ∨ v = allocateConfirmed new u) : entryIn v i = some e := by
    obtain ⟨-, hslots | ⟨j, hwaiting, hslots⟩⟩ := allocate_cases new u hv
    · rw [entryIn_congr hslots, he]
    · rw [entryIn_congr (v := setSlot j (some new) u) hslots, entryIn_setSlot, if_neg, he]
      rintro rfl
      exact hs (hwaiting e he)
  exact ⟨keeps (.inl rfl), keeps (.inr rfl)⟩

/-- CHECK_IN takes no entry that is not WAITING out of the table. -/
theorem handleCheckIn_keepsKeys {u : Bn24} {i : SlotIx} {e : Entry} (he : entryIn u i = some e) (hs : e.service ≠ .waiting)
    (p : PointIx) (k : Key) (cls : Fin 4) (late : Int) (speed : Nat) (skip : Bool) :
    ∃ f, entryIn (handleCheckIn p k cls late speed skip u) i = some f ∧ f.key = e.key := by
  unfold handleCheckIn
  split
  · exact ⟨e, he, rfl⟩
  · split
    · exact ⟨e, he, rfl⟩
    · split
      · exact ⟨e, (allocate_keeps he hs _).2, rfl⟩
      · split
        · exact ⟨e, he, rfl⟩
        next hold =>
          refine rewriteEntry_keepsKeys hold ?_ i e he
          rfl

/-- FORECAST_REQUEST takes no entry that is not WAITING out of the table. -/
theorem handleForecast_keepsKeys {u : Bn24} {i : SlotIx} {e : Entry} (he : entryIn u i = some e) (hs : e.service ≠ .waiting)
    (r : ForecastRequest) : ∃ f, entryIn (handleForecast r u) i = some f ∧ f.key = e.key := by
  have apply (w : Option Window) (q : Option Quality) (g : Nat) :
      ∃ f, entryIn (applyForecast r w q g u) i = some f ∧ f.key = e.key := by
    unfold applyForecast
    split
    · exact ⟨e, (allocate_keeps he hs _).1, rfl⟩
    · split
      · exact ⟨e, he, rfl⟩
      next hold =>
        split
        · exact ⟨e, he, rfl⟩
        · refine rewriteEntry_keepsKeys hold ?_ i e he
          rfl
  unfold handleForecast
  split
  · exact ⟨e, he, rfl⟩
  · split
    · exact ⟨e, he, rfl⟩
    · split
      · exact ⟨e, he, rfl⟩
      · exact apply _ _ _
      · exact apply _ _ _

/-- A message whose turn it is stands at the front of the inbox, in RUNNING (R6, R115). -/
theorem turnOfInbox_eq_some {u : Bn24} {m : DetectionMessage} (h : turnOfInbox u = some m) :
    u.loader.run = .running ∧ ∃ rq ib, u.table.requests = .detection :: rq ∧ u.detection.inbox = m :: ib := by
  unfold turnOfInbox at h
  split at h
  next hrun =>
    split at h
    next rq hrq =>
      obtain ⟨ib, hib⟩ := List.head?_eq_some_iff.mp h
      exact ⟨(isRunning_iff u).mp hrun, rq, ib, hrq, hib⟩
    next => cases h
  next => cases h

/-- Settles O60: forecast fields are written under the taken key alone (`writes_forecasts`), and eviction meets WAITING entries
alone (`allocate_keeps`). -/
theorem entriesAreRewrittenByTheirOwnMessages : Obligations.EntriesAreRewrittenByTheirOwnMessages := by
  unfold Obligations.EntriesAreRewrittenByTheirOwnMessages
  intro c s t i e h he
  have same {f : Entry} (hf : entryIn t.unit i = some f) (hK : ¬ TakesKey s c f.key) : SameForecast e f := by
    by_cases hreset : c = .hardReset
    · subst hreset
      rw [execHardReset_unit h] at hf
      simp [entryIn, Bn24.reset] at hf
    · obtain ⟨e', he', hsame⟩ := writes_forecasts (exec_writes h hreset) i f hf hK
      rw [he] at he'
      cases he'
      exact hsame
  refine ⟨fun hcheckIn hforecast f hf => same hf ?_, fun hcheckIn hforecast f hf hkey => ?_, fun hc hs => ?_⟩
  · rintro (⟨hc, -⟩ | ⟨hc, -⟩)
    · exact hcheckIn hc
    · exact hforecast hc
  · by_cases hK : TakesKey s c f.key
    · rcases hK with ⟨hc, p, cls, late, speed, skip, hturn⟩ | ⟨hc, r, rest, hfront, hr⟩
      · subst hc
        obtain ⟨hrun, rq, ib, hrq, hib⟩ := turnOfInbox_eq_some hturn
        simp only [exec, execCheckIn] at h
        obtain ⟨-, ⟨-, ht⟩ | ⟨hactive, -⟩⟩ := unlessReset_next h
        · rw [ht, he] at hf
          cases hf
          exact sameForecast_refl e
        · exact absurd hkey.symm (hcheckIn p _ cls late speed skip rq ib rfl ⟨⟨hactive, hrun⟩, hrq, hib⟩)
      · exact absurd (hkey.symm.trans hr.symm) (hforecast r rest hc hfront)
    · exact same hf hK
  · rcases hc with rfl | rfl
    · simp only [exec, execCheckIn] at h
      obtain ⟨-, ⟨-, ht⟩ | ⟨-, ht⟩⟩ := unlessReset_next h
      · exact ⟨e, ht ▸ he, rfl⟩
      · rw [ht]
        split
        · exact handleCheckIn_keepsKeys (u := purgeRecent (takeInbox s.unit)) he hs ..
        · exact ⟨e, he, rfl⟩
    · simp only [exec, execForecastRequest] at h
      obtain ⟨-, ⟨-, ht⟩ | ⟨-, ht⟩⟩ := unlessReset_next h
      · exact ⟨e, ht ▸ he, rfl⟩
      · rw [ht]
        split
        · exact handleForecast_keepsKeys (u := purgeRecent (popRequest s.unit)) he hs _
        · exact ⟨e, he, rfl⟩

end Sys2Proof.Machine
end

section
/-! The run state and the clock over a step: a unit outside RUNNING stays quiet, and the reference station stays as the lock state has
it (O57). -/

namespace Sys2Proof.Machine

/-! ### The form of every command -/

/-- The unit as a command leaves it, whatever commands wait. -/
def effectOf (c : Instr) (u : Bn24) : Bn24 :=
  match exec c { pending := [], unit := u } with
  | .next t => t.unit
  | .fault _ => u
  | .refused _ => u

/-- Every command answers a next state, with the queue of waiting commands as it was. -/
theorem exec_eq_effectOf (c : Instr) (s : State) : exec c s = .next { s with unit := effectOf c s.unit } := by
  cases c <;> rfl

/-- While the reset is in force only the reset's own two commands act (R191). -/
theorem effectOf_held {c : Instr} {u : Bn24} (hreset : c ≠ .hardReset) (hrelease : ∀ m n, c ≠ .resetRelease m n)
    (h : u.resetHeld = true) : effectOf c u = u := by
  cases c
  case hardReset => exact absurd rfl hreset
  case resetRelease m n => exact absurd rfl (hrelease m n)
  all_goals exact if_pos h

/-- Out of reset a command leaves the unit out of reset. -/
theorem exec_active {c : Instr} {s t : State} (h : exec c s = .next t) (hc : c ≠ .hardReset) (hs : Active s) : Active t := by
  refine writes_keep (P := fun v => v.resetHeld = false) (fun u v hw hu => ?_) (exec_writes h hc) hs
  cases hw
  case release => rfl
  case link => rw [handLink_frame]; exact hu
  all_goals exact hu

/-- While a hard reset is in force the unit is in its hard-reset state (R191). -/
theorem exec_heldOk {c : Instr} {s t : State} (h : exec c s = .next t) (hs : HeldOk s.unit) : HeldOk t.unit := by
  intro ht
  by_cases hreset : c = .hardReset
  · subst hreset
    exact execHardReset_unit h
  cases hheld : s.unit.resetHeld with
  | false =>
    have hactive : t.unit.resetHeld = false := exec_active h hreset hheld
    rw [ht] at hactive
    cases hactive
  | true =>
    by_cases hrelease : ∃ m n, c = .resetRelease m n
    · obtain ⟨m, n, rfl⟩ := hrelease
      injection h with h
      subst h
      have hfalse : (releaseReset m n s.unit).resetHeld = false := by
        unfold releaseReset beginLoad
        dsimp only
        split <;> rfl
      dsimp only at ht
      rw [if_pos hheld, hfalse] at ht
      cases ht
    · rw [exec_eq_effectOf, effectOf_held hreset (fun m n hmn => hrelease ⟨m, n, hmn⟩) hheld] at h
      injection h with h
      subst h
      exact hs hheld

/-- A ds passes in the state of before, or in the hard-reset state. -/
theorem tick_heldOk {u : Bn24} (hu : HeldOk u) : HeldOk (tick u) := by
  intro ht
  unfold tick at ht ⊢
  split at ht
  next hheld => rw [if_pos hheld]; exact hu hheld
  next hheld => exact absurd ht hheld

/-! ### What leaves the loader and the clock -/

/-- A command that writes no loader state leaves the loader. -/
theorem exec_loader {c : Instr} {s t : State} (h : exec c s = .next t) (hreset : c ≠ .hardReset) (hc : writesLoader c = false) :
    t.unit.loader = s.unit.loader := by
  refine writes_same Bn24.loader (fun u v hw => ?_) (exec_writes h hreset)
  cases hw
  case loader l hwrites _ => rw [hc] at hwrites; cases hwrites
  case install l hends => rw [(endsLoad_writes hends).1] at hc; cases hc
  case link => rw [handLink_frame]
  all_goals rfl

/-- A command that writes no clock state leaves the clock. -/
theorem exec_clock {c : Instr} {s t : State} (h : exec c s = .next t) (hreset : c ≠ .hardReset) (hc : writesClock c = false) :
    t.unit.clock = s.unit.clock := by
  refine writes_same Bn24.clock (fun u v hw => ?_) (exec_writes h hreset)
  cases hw
  case clock k hwrites _ _ => rw [hc] at hwrites; cases hwrites
  case beacon k hbeacon _ => subst hbeacon; cases hc
  case link => rw [handLink_frame]
  all_goals rfl

/-! ### The load -/

/-- A load goes on, or ends in UNCONFIGURED: the loader and the maintenance block change, and no configuration comes into force. -/
def LoadGoesOn (u v : Bn24) : Prop :=
  ∃ b l m, v = { u with resetHeld := b, loader := l, maint := m } ∧ l.inForce = u.loader.inForce ∧ l.run ≠ .running
    ∧ (l.phase ≠ .none → l.run = .loading)

theorem loadGoesOn_setLoader (f : Loader → Loader) (u : Bn24) (hforce : (f u.loader).inForce = u.loader.inForce)
    (hrun : (f u.loader).run ≠ .running) (hphase : (f u.loader).phase ≠ .none → (f u.loader).run = .loading) :
    LoadGoesOn u (setLoader f u) := ⟨_, _, _, rfl, hforce, hrun, hphase⟩

theorem LoadGoesOn.trans {u v w : Bn24} (h : LoadGoesOn u v) (h' : LoadGoesOn v w) : LoadGoesOn u w := by
  obtain ⟨b, l, m, rfl, hforce, -, -⟩ := h
  obtain ⟨b', l', m', rfl, hforce', hrun, hphase⟩ := h'
  exact ⟨b', l', m', rfl, hforce'.trans hforce, hrun, hphase⟩

theorem loadGoesOn_flag {u v : Bn24} (f : Flag) (h : LoadGoesOn (flag f u) v) : LoadGoesOn u v := by
  obtain ⟨b, l, m, rfl, hforce, hrun, hphase⟩ := h
  exact ⟨b, l, m, rfl, hforce, hrun, hphase⟩

theorem loadGoesOn_endUnconfigured (u : Bn24) : LoadGoesOn u (endUnconfigured u) :=
  loadGoesOn_setLoader _ u rfl nofun fun h => absurd rfl h

theorem loadGoesOn_faultLoad (u : Bn24) : LoadGoesOn u (faultLoad u) := loadGoesOn_flag .loadFault (loadGoesOn_endUnconfigured _)

theorem loadGoesOn_beginLoad (n : Nat) (u : Bn24) : LoadGoesOn u (beginLoad n u) := by
  have begun : LoadGoesOn u (setLoader (fun l => { l with run := .loading, phase := .addressing, working := .fresh }) u) :=
    loadGoesOn_setLoader _ u rfl nofun fun _ => rfl
  unfold beginLoad
  dsimp only
  split
  · exact begun
  · exact begun.trans (loadGoesOn_faultLoad _)

/-- A record read in a load: the load goes on, or ends in RUNNING (R187, R188). -/
theorem readRecord_goesOn (type : Byte) (body : List Byte) (remaining position : Nat) {u : Bn24} (hu : u.loader.run = .loading) :
    LoadGoesOn u (readRecord type body remaining position u)
      ∨ ∃ w, LoadGoesOn u w ∧ readRecord type body remaining position u = endRunning w := by
  have flagged (f : Flag) {v : Bn24} (hv : v.loader.run = .loading) : LoadGoesOn v (flag f v) :=
    ⟨_, _, _, rfl, rfl, by rw [hv]; exact nofun, fun _ => hv⟩
  have self {v : Bn24} (hv : v.loader.run = .loading) : LoadGoesOn v v :=
    ⟨_, _, _, rfl, rfl, by rw [hv]; exact nofun, fun _ => hv⟩
  have taken : LoadGoesOn u (takeOrSkip type body u) ∧ (takeOrSkip type body u).loader.run = .loading := by
    unfold takeOrSkip
    split
    · exact ⟨loadGoesOn_setLoader _ u rfl (by rw [hu]; exact nofun) fun _ => hu, hu⟩
    · exact ⟨flagged _ hu, hu⟩
  unfold readRecord
  split
  · exact .inr ⟨_, flagged .tableFormat hu, rfl⟩
  · split
    · exact .inr ⟨_, flagged .loadOverflow hu, rfl⟩
    · obtain ⟨htaken, hrun⟩ := taken
      unfold nextRecord
      split
      · exact .inr ⟨_, htaken, rfl⟩
      · split
        · exact .inr ⟨_, htaken.trans (flagged .loadOverflow hrun), rfl⟩
        · exact .inl (htaken.trans (loadGoesOn_setLoader _ _ rfl (by rw [hrun]; exact nofun) fun _ => hrun))

/-- What a command of a load does: nothing, or in LOADING the load goes on or ends in RUNNING (R182 to R190). -/
theorem effectOf_load {c : Instr} (hc : writesLoader c = true) (hreload : ∀ n, c ≠ .reload n) {u : Bn24} (hheld : HeldOk u)
    (hload : LoadOk u) :
    effectOf c u = u ∨ (u.loader.run = .loading
      ∧ (LoadGoesOn u (effectOf c u) ∨ ∃ w, LoadGoesOn u w ∧ effectOf c u = endRunning w)) := by
  by_cases hrelease : ∃ m n, c = .resetRelease m n
  · obtain ⟨m, n, rfl⟩ := hrelease
    cases hr : u.resetHeld with
    | false => exact .inl (by simp [effectOf, exec, execResetRelease, hr])
    | true =>
      have hrun : u.loader.run = .loading := by rw [hheld hr]; rfl
      refine .inr ⟨hrun, .inl ?_⟩
      have he : effectOf (.resetRelease m n) u = releaseReset m n u := by simp [effectOf, exec, execResetRelease, hr]
      obtain ⟨b, l, k, hv, hl⟩ := loadGoesOn_beginLoad n { u with resetHeld := false, maint.madr := m }
      exact ⟨b, l, k, he.trans hv, hl⟩
  cases hr : u.resetHeld with
  | true =>
    refine .inl (effectOf_held ?_ (fun m n h => hrelease ⟨m, n, h⟩) hr)
    rintro rfl
    cases hc
  | false =>
    have loading {p : LoadPhase} (hp : u.loader.phase = p) (hne : p ≠ .none) : u.loader.run = .loading :=
      hload (hp ▸ hne)
    have still (l : Loader → Loader) (hp : u.loader.phase ≠ .none) (hforce : (l u.loader).inForce = u.loader.inForce)
        (hl : (l u.loader).run = u.loader.run) : LoadGoesOn u (setLoader l u) :=
      loadGoesOn_setLoader _ u hforce (by rw [hl, hload hp]; exact nofun) fun _ => by rw [hl, hload hp]
    cases c
    case resetRelease m n => exact absurd ⟨m, n, rfl⟩ hrelease
    case reload n => exact absurd rfl (hreload n)
    case loadFault =>
      cases ha : addressingMemory u with
      | false => exact .inl (by simp [effectOf, exec, execLoadFault, unlessReset, hr, ha])
      | true =>
        have he : effectOf .loadFault u = faultLoad u := by simp [effectOf, exec, execLoadFault, unlessReset, hr, ha]
        have hrun : u.loader.run = .loading := by simp [addressingMemory] at ha; exact ha.1
        exact .inr ⟨hrun, .inl (he ▸ loadGoesOn_faultLoad u)⟩
    case esclHoldTimeout =>
      cases ha : loadInProgress u with
      | false => exact .inl (by simp [effectOf, exec, execEsclHoldTimeout, unlessReset, hr, ha])
      | true =>
        have he : effectOf .esclHoldTimeout u = faultLoad u := by
          simp [effectOf, exec, execEsclHoldTimeout, unlessReset, hr, ha]
        have hrun : u.loader.run = .loading := by simp [loadInProgress] at ha; exact ha.1
        exact .inr ⟨hrun, .inl (he ▸ loadGoesOn_faultLoad u)⟩
    case imageMarkRead mark =>
      cases hp : u.loader.phase
      case addressing =>
        refine .inr ⟨loading hp nofun, .inl ?_⟩
        have he : effectOf (.imageMarkRead mark) u =
            if mark = Config.imageMark then setPhaseOfLoad .identity u else endUnconfigured u := by
          simp [effectOf, exec, execImageMarkRead, unlessReset, hr, hp]
        rw [he]
        split
        · exact still _ (by rw [hp]; exact nofun) rfl rfl
        · exact loadGoesOn_endUnconfigured u
      all_goals exact .inl (by simp [effectOf, exec, execImageMarkRead, unlessReset, hr, hp])
    case identityBlockRead station rate site0 site1 =>
      cases hp : u.loader.phase
      case identity =>
        refine .inr ⟨loading hp nofun, .inl ?_⟩
        have he : effectOf (.identityBlockRead station rate site0 site1) u = readIdentity station rate site0 site1 u := by
          simp [effectOf, exec, execIdentityBlockRead, unlessReset, hr, hp]
        have hsite := still (fun l => { l with siteCode := site0 ++ site1 }) (by rw [hp]; exact nofun) rfl rfl
        rw [he, readIdentity]
        dsimp only
        split
        · exact hsite.trans (loadGoesOn_endUnconfigured _)
        · have hrun : (setLoader (fun l => { l with siteCode := site0 ++ site1 }) u).loader.run = .loading := loading hp nofun
          exact hsite.trans (loadGoesOn_setLoader _ _ rfl (by rw [hrun]; exact nofun) fun _ => hrun)
      all_goals exact .inl (by simp [effectOf, exec, execIdentityBlockRead, unlessReset, hr, hp])
    case parameterBlockRead mark block =>
      cases hp : u.loader.phase
      case parameters =>
        refine .inr ⟨loading hp nofun, .inl ?_⟩
        have he : effectOf (.parameterBlockRead mark block) u = readParameters mark block.toList u := by
          simp [effectOf, exec, execParameterBlockRead, unlessReset, hr, hp]
        rw [he]
        exact still _ (by rw [hp]; exact nofun) rfl rfl
      all_goals exact .inl (by simp [effectOf, exec, execParameterBlockRead, unlessReset, hr, hp])
    case tableMarkRead mark n =>
      cases hp : u.loader.phase
      case tableMark =>
        have hrun := loading hp nofun
        refine .inr ⟨hrun, ?_⟩
        have he : effectOf (.tableMarkRead mark n) u =
            if mark ≠ Config.imageMark ∨ n = 0 then endRunning u else setPhaseOfLoad (.records n.toNat firstRecord) u := by
          simp [effectOf, exec, execTableMarkRead, unlessReset, hr, hp]
        rw [he]
        split
        · exact .inr ⟨u, ⟨_, _, _, rfl, rfl, by rw [hrun]; exact nofun, fun _ => hrun⟩, rfl⟩
        · exact .inl (still _ (by rw [hp]; exact nofun) rfl rfl)
      all_goals exact .inl (by simp [effectOf, exec, execTableMarkRead, unlessReset, hr, hp])
    case tableRecordRead type body =>
      cases hp : u.loader.phase
      case records left position =>
        have hrun := loading hp nofun
        cases left with
        | zero => exact .inl (by simp [effectOf, exec, execTableRecordRead, unlessReset, hr, hp])
        | succ left =>
          refine .inr ⟨hrun, ?_⟩
          have he : effectOf (.tableRecordRead type body) u = readRecord type body.toList left position u := by
            simp [effectOf, exec, execTableRecordRead, unlessReset, hr, hp]
          rw [he]
          exact readRecord_goesOn _ _ _ _ hrun
      all_goals exact .inl (by simp [effectOf, exec, execTableRecordRead, unlessReset, hr, hp])
    all_goals cases hc

/-! ### Quiet outside RUNNING -/

/-- The working state is empty and the corridor blocks are OFF. -/
def Quiet (u : Bn24) : Prop :=
  u.table.slots = Vector.replicate 24 none ∧ u.table.recent = [] ∧ u.table.requests = [] ∧ u.arbiter.slot = .free
    ∧ u.arbiter.joins = [] ∧ u.detection.inbox = [] ∧ u.controller.phase = Vector.replicate 4 none
    ∧ u.controller.silent = false ∧ u.controller.silenceStart = none ∧ u.port.state = .off ∧ u.port.queue = []
    ∧ u.clock.lock = .off ∧ u.clock.beacons = []

/-- The loader and the maintenance block are no part of it. -/
theorem LoadGoesOn.quiet {u v : Bn24} (h : LoadGoesOn u v) (hu : Quiet u) : Quiet v := by
  obtain ⟨b, l, m, rfl, -⟩ := h
  exact hu

/-- Outside RUNNING the commands of the blocks have nothing to act on: a unit that is quiet stays so. -/
theorem effectOf_quiet {c : Instr} (hc : writesLoader c = false) {u : Bn24} (hr : u.loader.run ≠ .running) (hu : Quiet u) :
    Quiet (effectOf c u) := by
  by_cases hreset : c = .hardReset
  · subst hreset
    exact ⟨rfl, rfl, rfl, rfl, rfl, rfl, rfl, rfl, rfl, rfl, rfl, rfl, rfl⟩
  cases hheld : u.resetHeld with
  | true =>
    rw [effectOf_held hreset (by rintro m n rfl; cases hc) hheld]
    exact hu
  | false =>
    obtain ⟨hslots, hrecent, hrequests, hslot, hjoins, hinbox, hphase, hsilent, hstart, hport, hqueue, hlock, hbeacons⟩ := id hu
    have hrun : isRunning u = false := by simpa [isRunning] using hr
    have hempty (i : SlotIx) : entryIn u i = none := by simp [entryIn, hslots]
    have off (f : ReceivedFrame) (v : Bn24) (hv : Quiet v) (hl : v.loader = u.loader) : Quiet (handleFrame f v) := by
      rw [handleFrame_quiet f v (by simp only [isRunning, hl]; exact hrun)]
      split <;> exact hv
    have act {v : Bn24} (he : effectOf c u = if u.resetHeld then u else v) (hv : Quiet v) : Quiet (effectOf c u) := by
      rw [he, hheld]
      exact hv
    have same {v : Bn24} (he : effectOf c u = if u.resetHeld then u else v) (hv : v = u) : Quiet (effectOf c u) :=
      act he (hv ▸ hu)
    cases c
    case maintTransferStart => exact act rfl hu
    case maintTransferEnd => exact act rfl hu
    case internalAddressWrite => exact act rfl hu
    case attentionEnablesWrite => exact act rfl hu
    case clearCounters => exact act rfl hu
    case clearFlags => exact act rfl hu
    case commandUnknown => exact act rfl hu
    case maintWriteIgnored => exact act rfl hu
    case clearFlagsPending => exact act rfl hu
    case enablesFirstByteWrite => exact act rfl hu
    case readLatchFirstByte =>
      refine act rfl ?_
      dsimp only
      unfold readFirst
      dsimp only
      split
      · split <;> exact hu
      · exact hu
    case readLatchSecondByte =>
      refine act rfl ?_
      dsimp only
      split
      · split
        · unfold readSecond
          split
          · split <;> exact hu
          · exact hu
        · exact hu
      · exact hu
    case detMessageReceived => exact same rfl (by simp [hrun])
    case detLengthDrop => exact same rfl (by simp [hrun])
    case detGapAbandon => exact same rfl (by simp [hrun])
    case detCharacterError => exact same rfl (by simp [hrun])
    case detStartByte => exact same rfl (by simp [hrun])
    case checkIn => exact same rfl (by simp [turnOfInbox, hrun])
    case checkOut => exact same rfl (by simp [turnOfInbox, hrun])
    case cancel => exact same rfl (by simp [turnOfInbox, hrun])
    case forecastRequest => exact same rfl (by simp [hrequests])
    case invalidationRequest => exact same rfl (by simp [hrequests])
    case evaluation => exact same rfl (by simp [hrequests])
    case silenceRequest => exact same rfl (by simp [hrequests])
    case entryExpiry slot => exact same rfl (by simp [hempty])
    case untimedExpiry slot => exact same rfl (by simp [hempty])
    case recentDepartureLapse =>
      refine act rfl ?_
      refine ⟨hslots, ?_, hrequests, hslot, hjoins, hinbox, hphase, hsilent, hstart, hport, hqueue, hlock, hbeacons⟩
      simp [hrecent]
    case joinRequest => exact same rfl (by simp [hjoins])
    case replyWaitExpiry => exact same rfl (by simp [hslot])
    case grantDeadline => exact same rfl (by simp [hslot])
    case controllerMessageReceived => exact same rfl (by simp [hrun])
    case linkLengthDrop => exact same rfl (by simp [hrun])
    case linkGapAbandon => exact same rfl (by simp [hrun])
    case linkCharacterError => exact same rfl (by simp [hrun])
    case linkStartByte => exact same rfl (by simp [hrun])
    case controllerSilence => exact same rfl (by simp [silenceDue, hrun])
    case controllerMessageSent =>
      refine act rfl ?_
      dsimp only
      split <;> exact hu
    case quietWaitEnd => exact same rfl (by simp [hport])
    case attemptStart => exact same rfl (by simp [hport])
    case startMarkDetected => exact same rfl (by simp [hport, listening])
    case pulseNotFrame => exact same rfl (by simp [hport, listening])
    case frameReceived => exact same rfl (by simp [hport, listening])
    case frameMalformed => exact same rfl (by simp [hport, listening])
    case arbitrationLoss => exact same rfl (by simp [hport])
    case arbitrationWon => exact same rfl (by simp [hport])
    case lineFault => exact same rfl (by simp [hport])
    case sendComplete => exact same rfl (by simp [hport])
    case passageRequest =>
      refine act rfl ?_
      dsimp only
      split
      · rw [handleRequest_off _ (popHandlerRequest u) hport]; exact hu
      · exact hu
    case withdrawRequest =>
      refine act rfl ?_
      dsimp only
      split
      · rw [handleRequest_off _ (popHandlerRequest u) hport]; exact hu
      · exact hu
    case passageReceived =>
      refine act rfl ?_
      dsimp only
      split
      · exact off _ _ hu rfl
      · exact hu
    case withdrawReceived =>
      refine act rfl ?_
      dsimp only
      split
      · exact off _ _ hu rfl
      · exact hu
    case beaconReceived => exact same rfl (by simp [hbeacons])
    case beaconTimer => exact same rfl (by simp [beaconDue, hlock])
    case acquisitionWaitEnd => exact same rfl (by simp [acquisitionOver, hlock])
    case referenceStale => exact same rfl (by simp [referenceIsStale, hlock])
    case holdoverLimit => exact same rfl (by simp [holdoverOver, hlock])
    case lowerRecordStale => exact same rfl (by simp [holdoverOver, hlock])
    case hardReset => exact absurd rfl hreset
    all_goals cases hc

/-- The end of a load in RUNNING (R190). -/
theorem endRunning_run (u : Bn24) : (endRunning u).loader.run = .running ∧ (endRunning u).loader.phase = .none := by
  unfold endRunning
  rw [(clockStart_keeps _).1]
  exact ⟨rfl, rfl⟩

/-- RELOAD is refused, or empties and stops every working block before the load begins (R192). -/
theorem effectOf_reload (n : Nat) (u : Bn24) :
    effectOf (.reload n) u = u ∨ (u.loader.run = .loading ∧ effectOf (.reload n) u = setMaint (takeCommand 0x01 .busy) u)
      ∨ (u.loader.run ≠ .loading ∧ effectOf (.reload n) u = doReload n (setMaint (takeCommand 0x01 .done) u)) := by
  have he : effectOf (.reload n) u = if u.resetHeld then u else
      if landsAt 0x0E u.maint then
        if u.loader.run = .loading then setMaint (takeCommand 0x01 .busy) u
        else doReload n (setMaint (takeCommand 0x01 .done) u)
      else u := rfl
  rw [he]
  split
  · exact .inl rfl
  · split
    · split
      next hl => exact .inr (.inl ⟨hl, rfl⟩)
      next hl => exact .inr (.inr ⟨hl, rfl⟩)
    · exact .inl rfl

/-- An accepted RELOAD leaves the unit quiet. -/
theorem doReload_quiet (n : Nat) {u : Bn24} (hu : u.loader.run ≠ .running → Quiet u) : Quiet (doReload n u) := by
  refine (loadGoesOn_beginLoad n _).quiet ?_
  have kept : (clearForReload u).loader = u.loader ∧ (clearForReload u).clock = u.clock := by
    unfold clearForReload
    split
    · exact ⟨rfl, rfl⟩
    · rw [handLink_frame]; exact ⟨rfl, rfl⟩
    · rw [handLink_frame]; exact ⟨rfl, rfl⟩
  obtain ⟨hloader, hclock⟩ := kept
  have stopped (w : Bn24) (hlock : w.clock.lock = .off) (hbeacons : w.clock.beacons = []) (hw : w = { portOff (emptyBlocks
      (clearForReload u)) with clock := w.clock }) : Quiet w := by
    rw [hw]
    exact ⟨rfl, rfl, rfl, rfl, rfl, rfl, rfl, rfl, rfl, rfl, rfl, hlock, hbeacons⟩
  unfold clockOff
  split
  next => exact stopped _ rfl rfl rfl
  next hrun =>
    have hnot : u.loader.run ≠ .running := by
      intro h
      apply hrun
      rw [isRunning_iff]
      exact (congrArg Loader.run hloader).trans h
    obtain ⟨-, -, -, -, -, -, -, -, -, -, -, hlock, hbeacons⟩ := hu hnot
    refine stopped _ ?_ ?_ rfl
    · exact (congrArg TimeUnit.lock hclock).trans hlock
    · exact (congrArg TimeUnit.beacons hclock).trans hbeacons

theorem exec_effectOf {c : Instr} {s t : State} (h : exec c s = .next t) : t.unit = effectOf c s.unit := by
  rw [exec_eq_effectOf] at h
  injection h with h
  exact h ▸ rfl

/-- A read place stands only in LOADING (R182). -/
theorem exec_loadOk {c : Instr} {s t : State} (h : exec c s = .next t) (hheld : HeldOk s.unit) (hload : LoadOk s.unit) :
    LoadOk t.unit := by
  by_cases hreset : c = .hardReset
  · subst hreset
    rw [execHardReset_unit h]
    exact nofun
  have ht := exec_effectOf h
  have goesOn {u v : Bn24} (hv : LoadGoesOn u v) : LoadOk v := by
    obtain ⟨b, l, m, rfl, -, -, hphase⟩ := hv
    exact hphase
  rw [ht]
  cases hc : writesLoader c with
  | false =>
    have hloader := exec_loader h hreset hc
    rw [ht] at hloader
    unfold LoadOk
    rw [hloader]
    exact hload
  | true =>
    by_cases hreload : ∃ n, c = .reload n
    · obtain ⟨n, rfl⟩ := hreload
      rcases effectOf_reload n s.unit with he | ⟨-, he⟩ | ⟨-, he⟩
      · rw [he]; exact hload
      · rw [he]; exact hload
      · rw [he]; exact goesOn (loadGoesOn_beginLoad n _)
    · rcases effectOf_load hc (fun n hn => hreload ⟨n, hn⟩) hheld hload with he | ⟨-, hgo | ⟨w, -, he⟩⟩
      · rw [he]; exact hload
      · exact goesOn hgo
      · rw [he]; exact fun hne => absurd (endRunning_run w).2 hne

/-- A command keeps the quiet of a unit that is not RUNNING. -/
theorem exec_quietInvariant {c : Instr} {s t : State} (h : exec c s = .next t) (hs : QuietInvariant s.unit) :
    QuietInvariant t.unit := by
  obtain ⟨hheld, hload, hquiet⟩ := hs
  refine ⟨exec_heldOk h hheld, exec_loadOk h hheld hload, ?_⟩
  by_cases hreset : c = .hardReset
  · subst hreset
    rw [execHardReset_unit h]
    exact fun _ => ⟨rfl, rfl, rfl, rfl, rfl, rfl, rfl, rfl, rfl, rfl, rfl, rfl, rfl⟩
  have ht := exec_effectOf h
  by_cases hreload : ∃ n, c = .reload n
  · obtain ⟨n, rfl⟩ := hreload
    rcases effectOf_reload n s.unit with he | ⟨-, he⟩ | ⟨-, he⟩
    · rw [ht, he]; exact hquiet
    · rw [ht, he]; exact hquiet
    · rw [ht, he]; exact fun _ => doReload_quiet n hquiet
  cases hc : writesLoader c with
  | true =>
    rcases effectOf_load hc (fun n hn => hreload ⟨n, hn⟩) hheld hload with he | ⟨hrun, hgo | ⟨w, hw, he⟩⟩
    · rw [ht, he]; exact hquiet
    · rw [ht]; exact fun _ => hgo.quiet (hquiet (by rw [hrun]; exact nofun))
    · rw [ht, he]; exact fun hne => absurd (endRunning_run w).1 hne
  | false =>
    have hloader := exec_loader h hreset hc
    intro hne
    rw [hloader] at hne
    rw [ht]
    exact effectOf_quiet hc hne (hquiet hne)

/-! ### The reference station -/

/-- The reference of the clock, that of its saved state at the noted station, and the senders of the delivered beacons. -/
def ClockOk (k : TimeUnit) (own : Nat) : Prop :=
  ReferenceOk k.lock k.reference own ∧ (∀ v ∈ k.saved, ∀ n ∈ k.noted, ReferenceOk v.lock v.reference n.1)
    ∧ ∀ b ∈ k.beacons, 0 < b.station

/-- What the lock and its reference become, the rest of the clock that matters being kept. -/
def LockMoves (k l : TimeUnit) (lock : LockState) (reference : Nat) : Prop :=
  l.lock = lock ∧ l.reference = reference ∧ l.saved = k.saved ∧ l.noted = k.noted ∧ l.beacons = k.beacons

theorem LockMoves.clockOk {k l : TimeUnit} {lock : LockState} {reference own : Nat} (h : LockMoves k l lock reference)
    (hk : ClockOk k own) (href : ReferenceOk lock reference own) : ClockOk l own := by
  obtain ⟨hlock, hreference, hsaved, hnoted, hbeacons⟩ := h
  obtain ⟨-, hks, hkb⟩ := hk
  unfold ClockOk
  rw [hlock, hreference, hsaved, hnoted, hbeacons]
  exact ⟨href, hks, hkb⟩

theorem leftState_clock (old : LockState) (u : Bn24) : (leftState old u).clock = u.clock := by
  unfold leftState leftFine
  split
  · split <;> rfl
  all_goals rfl

theorem takeReference_moves (station : Nat) (e : Int) (u : Bn24) :
    LockMoves u.clock (takeReference station e u).clock .coarse station := by
  have hset : (setReference station u).clock = { u.clock with reference := station } := by
    unfold setReference
    dsimp only
    split <;> rfl
  unfold takeReference
  rw [leftState_clock]
  change LockMoves u.clock { moveOffset e (setReference station u).clock with
    lock := .coarse, fine := 0, acqStart := none, holdStart := none } .coarse station
  rw [hset]
  exact ⟨rfl, rfl, rfl, rfl, rfl⟩

theorem enteredFine_clock (u : Bn24) : (enteredFine u).clock = u.clock := by
  rw [enteredFine_eq]

theorem leftFine_clock (u : Bn24) : (leftFine u).clock = u.clock := by
  rw [leftFine_eq]

/-- A beacon of the reference in COARSE leaves the reference, in COARSE or FINE (R169). -/
theorem followCoarse_moves (e : Int) {u : Bn24} (hlock : u.clock.lock = .coarse) :
    LockMoves u.clock (followCoarse e u).clock .coarse u.clock.reference
      ∨ LockMoves u.clock (followCoarse e u).clock .fine u.clock.reference := by
  unfold followCoarse
  split
  · exact .inl ⟨hlock, rfl, rfl, rfl, rfl⟩
  · split
    · exact .inl ⟨hlock, rfl, rfl, rfl, rfl⟩
    · split
      · exact .inl ⟨hlock, rfl, rfl, rfl, rfl⟩
      · rw [enteredFine_clock]
        exact .inr ⟨rfl, rfl, rfl, rfl, rfl⟩

/-- A beacon of the reference in FINE leaves the reference, in FINE or COARSE (R170). -/
theorem followFine_moves (e : Int) {u : Bn24} (hlock : u.clock.lock = .fine) :
    LockMoves u.clock (followFine e u).clock .fine u.clock.reference
      ∨ LockMoves u.clock (followFine e u).clock .coarse u.clock.reference := by
  unfold followFine
  split
  · rw [leftFine_clock]
    exact .inr ⟨rfl, rfl, rfl, rfl, rfl⟩
  · split
    · exact .inl ⟨hlock, rfl, rfl, rfl, rfl⟩
    · split
      · exact .inl ⟨hlock, rfl, rfl, rfl, rfl⟩
      · rw [leftFine_clock]
        exact .inr ⟨rfl, rfl, rfl, rfl, rfl⟩

/-- A beacon of a lower station leaves a reference lower than the unit's own (R165). -/
theorem applyLowerBeacon_clockOk {station own : Nat} (hpos : 0 < station) (hown : station < own) (e : Int) {u : Bn24}
    (hu : ClockOk u.clock own) : ClockOk (applyLowerBeacon station e u).clock own := by
  have take : ClockOk (takeReference station e u).clock own := (takeReference_moves station e u).clockOk hu ⟨hpos, hown⟩
  have href := hu.1
  unfold applyLowerBeacon
  split
  · exact hu
  · exact take
  · exact take
  next hlock =>
    split
    · exact take
    · split
      · rw [hlock] at href
        rcases followCoarse_moves e hlock with h | h <;> exact h.clockOk hu href
      · exact hu
  next hlock =>
    split
    · exact take
    · split
      · rw [hlock] at href
        rcases followFine_moves e hlock with h | h <;> exact h.clockOk hu href
      · exact hu
  next =>
    split
    · exact hu
    · exact take

/-- A delivered beacon is handled without effect on a lock that is OFF, and leaves the reference as its state has it. -/
theorem handleBeacon_clockOk {b : ReceivedBeacon} (hpos : 0 < b.station) {u : Bn24}
    (hu : ClockOk u.clock u.loader.inForce.station) : ClockOk (handleBeacon b u).clock u.loader.inForce.station := by
  unfold handleBeacon
  split
  · exact hu
  · split
    · unfold applyBeacon
      dsimp only
      split
      next hlower => exact applyLowerBeacon_clockOk hpos hlower _ (u := setClock _ u) hu
      next => exact hu
    · exact hu

theorem enterAcquiring_moves (u : Bn24) : LockMoves u.clock (enterAcquiring u).clock .acquiring 0 := ⟨rfl, rfl, rfl, rfl, rfl⟩

theorem enterFree_moves (u : Bn24) : LockMoves u.clock (enterFree u).clock .free 0 := ⟨rfl, rfl, rfl, rfl, rfl⟩

theorem enterHoldover_moves (u : Bn24) : LockMoves u.clock (enterHoldover u).clock .holdover u.clock.reference := by
  unfold enterHoldover
  rw [leftState_clock]
  exact ⟨rfl, rfl, rfl, rfl, rfl⟩

/-- A saved lock that is resumed brings its reference, or none (R180). -/
theorem resumeLock_clockOk {v : SavedLock} {own : Nat} (hv : ReferenceOk v.lock v.reference own) {u : Bn24}
    (hsaved : ∀ w ∈ u.clock.saved, ∀ n ∈ u.clock.noted, ReferenceOk w.lock w.reference n.1)
    (hbeacons : ∀ b ∈ u.clock.beacons, 0 < b.station) : ClockOk (resumeLock v u).clock own := by
  have restored : ClockOk (restoreLock v u).clock own := ⟨hv, hsaved, hbeacons⟩
  have acquiring : ClockOk (enterAcquiring u).clock own := ⟨rfl, hsaved, hbeacons⟩
  have holdover (h : 0 < v.reference ∧ v.reference < own) : ClockOk (enterHoldover (restoreLock v u)).clock own :=
    (enterHoldover_moves _).clockOk restored h
  unfold resumeLock
  dsimp only
  split
  · exact acquiring
  · exact acquiring
  next hlock =>
    split
    · exact holdover (by rw [hlock] at hv; exact hv)
    · exact restored
  next hlock =>
    split
    · exact holdover (by rw [hlock] at hv; exact hv)
    · exact restored
  next =>
    split
    · exact (enterFree_moves _).clockOk restored rfl
    · exact restored
  next =>
    split
    · exact acquiring
    · exact restored

/-- RUNNING begins with the reference of a saved lock of the same station, or with none (R180, R190). -/
theorem clockStart_clockOk {u : Bn24} (hsaved : ∀ v ∈ u.clock.saved, ∀ n ∈ u.clock.noted, ReferenceOk v.lock v.reference n.1)
    (hbeacons : ∀ b ∈ u.clock.beacons, 0 < b.station) : ClockOk (clockStart u).clock u.loader.inForce.station := by
  unfold clockStart
  dsimp only
  split
  next v n hv hn =>
    split
    next hsame =>
      have href := hsaved v hv n hn
      rw [hsame] at href
      exact resumeLock_clockOk href nofun hbeacons
    next =>
      rw [leftState_clock]
      exact ⟨rfl, nofun, hbeacons⟩
  next => exact ⟨rfl, nofun, hbeacons⟩

/-- A load that ends in RUNNING starts the clock from what was saved. -/
theorem endRunning_clockOk {u : Bn24} (hsaved : ∀ v ∈ u.clock.saved, ∀ n ∈ u.clock.noted, ReferenceOk v.lock v.reference n.1)
    (hbeacons : ∀ b ∈ u.clock.beacons, 0 < b.station) :
    ClockOk (endRunning u).clock (endRunning u).loader.inForce.station := by
  have hkept : (settleHandler u).clock = u.clock := congrArg Prod.fst (keptByHandler_settleHandler u)
  unfold endRunning
  rw [(clockStart_keeps _).1]
  refine clockStart_clockOk ?_ ?_
  · change ∀ v ∈ (settleHandler u).clock.saved, ∀ n ∈ (settleHandler u).clock.noted, _
    rw [hkept]
    exact hsaved
  · change ∀ b ∈ (settleHandler u).clock.beacons, _
    rw [hkept]
    exact hbeacons

/-- A frame delivered to the clock has a sender from 1 on (R127). -/
theorem receiveFrame_clockOk (header : Half) (payload : List Byte) (check : Half) {u : Bn24} {own : Nat} (hu : ClockOk u.clock own) :
    ClockOk (receiveFrame header payload check u).clock own := by
  unfold receiveFrame
  split
  · unfold dropMalformed
    dsimp only
    split <;> exact hu
  · dsimp only
    split
    next hvalid =>
      obtain ⟨-, -, -, hsender, -⟩ := (frameValid_iff _ _ _).mp hvalid
      split
      · unfold takeClash
        rw [countTimes_frame]
        exact hu
      · unfold deliverFrame
        dsimp only
        split
        · obtain ⟨href, hsaved, hbeacons⟩ := hu
          refine ⟨href, hsaved, fun b hb => ?_⟩
          rcases List.mem_append.mp hb with hb | hb
          · exact hbeacons b hb
          · rw [List.mem_singleton.mp hb]
            exact hsender
        · split <;> exact hu
    next => exact hu

theorem receiveFrame_lock (header : Half) (payload : List Byte) (check : Half) (u : Bn24) :
    (receiveFrame header payload check u).clock.lock = u.clock.lock := by
  unfold receiveFrame
  split
  · unfold dropMalformed
    dsimp only
    split <;> rfl
  · dsimp only
    split
    · split
      · unfold takeClash
        rw [countTimes_frame]
        rfl
      · unfold deliverFrame
        dsimp only
        split
        · rfl
        · split <;> rfl
    · rfl

theorem handleBeacon_off {u : Bn24} {b : ReceivedBeacon} (h : u.clock.lock = .off) : handleBeacon b u = u :=
  if_pos h

/-- In the clock's own commands: the reference stays as the lock state has it, and a lock that is OFF stays OFF. -/
theorem effectOf_clock {c : Instr} (hc : writesClock c = true) (hl : writesLoader c = false) {u : Bn24}
    (hu : ClockOk u.clock u.loader.inForce.station) :
    ClockOk (effectOf c u).clock u.loader.inForce.station ∧ (u.clock.lock = .off → (effectOf c u).clock.lock = .off) := by
  have act {v : Bn24} (he : effectOf c u = if u.resetHeld then u else v)
      (hv : ClockOk v.clock u.loader.inForce.station ∧ (u.clock.lock = .off → v.clock.lock = .off)) :
      ClockOk (effectOf c u).clock u.loader.inForce.station ∧ (u.clock.lock = .off → (effectOf c u).clock.lock = .off) := by
    rw [he]
    split
    · exact ⟨hu, id⟩
    · exact hv
  have href := hu.1
  cases c
  case frameReceived header payload check =>
    refine act rfl ?_
    dsimp only
    split
    · exact ⟨receiveFrame_clockOk _ _ _ hu, fun h => (receiveFrame_lock _ _ _ u).trans h⟩
    · exact ⟨hu, id⟩
  case beaconReceived =>
    refine act rfl ?_
    dsimp only
    split
    · exact ⟨hu, id⟩
    next b rest hfront =>
      obtain ⟨href, hsaved, hbeacons⟩ := hu
      rw [hfront] at hbeacons
      have hrest : ∀ r ∈ rest, 0 < r.station := fun r hr => hbeacons r (List.mem_cons_of_mem _ hr)
      refine ⟨handleBeacon_clockOk (u := setClock _ u) (hbeacons b List.mem_cons_self) ⟨href, hsaved, hrest⟩, fun hoff => ?_⟩
      have hstays := handleBeacon_off (u := setClock (fun c => { c with beacons := rest }) u) (b := b) hoff
      exact (congrArg (·.clock.lock) hstays).trans hoff
  case beaconTimer =>
    refine act rfl ?_
    dsimp only
    split
    next hdue =>
      have hne : u.clock.lock ≠ .off := by simp [beaconDue] at hdue; exact hdue.1
      have hkept := congrArg Prod.fst (keptByHandler_offerFrame .beacon 3
        (setClock (fun k => { k with beaconStart := some u.localTime }) u))
      refine ⟨?_, fun h => absurd h hne⟩
      change (offerFrame .beacon 3 _).clock = _ at hkept
      rw [hkept]
      exact hu
    next => exact ⟨hu, id⟩
  case acquisitionWaitEnd =>
    refine act rfl ?_
    dsimp only
    split
    next hover =>
      refine ⟨(enterFree_moves u).clockOk hu rfl, fun hoff => ?_⟩
      simp [acquisitionOver, hoff] at hover
    next => exact ⟨hu, id⟩
  case referenceStale =>
    refine act rfl ?_
    dsimp only
    split
    next hstale =>
      simp only [referenceIsStale, Bool.and_eq_true, Bool.or_eq_true, decide_eq_true_eq] at hstale
      obtain ⟨hlock, -⟩ := hstale
      refine ⟨(enterHoldover_moves u).clockOk hu ?_, fun hoff => ?_⟩
      · rcases hlock with h | h <;> rw [h] at href <;> exact href
      · rcases hlock with h | h <;> rw [h] at hoff <;> cases hoff
    next => exact ⟨hu, id⟩
  case holdoverLimit =>
    refine act rfl ?_
    dsimp only
    split
    next hover =>
      refine ⟨(enterFree_moves u).clockOk hu rfl, fun hoff => ?_⟩
      simp [holdoverOver, hoff] at hover
    next => exact ⟨hu, id⟩
  case lowerRecordStale =>
    refine act rfl ?_
    dsimp only
    split
    next hover =>
      refine ⟨(enterFree_moves u).clockOk hu rfl, fun hoff => ?_⟩
      simp [holdoverOver, hoff] at hover
    next => exact ⟨hu, id⟩
  case tableMarkRead => cases hl
  case tableRecordRead => cases hl
  case reload => cases hl
  all_goals cases hc

/-- What RELOAD saves of the lock is noted with the station it held at (R180). -/
theorem doReload_clock (n : Nat) {u : Bn24} (hload : u.loader.run ≠ .running → u.clock.lock = .off)
    (hu : ClockOk u.clock u.loader.inForce.station) :
    (doReload n u).clock.lock = .off ∧ ClockOk (doReload n u).clock (doReload n u).loader.inForce.station := by
  have kept : (clearForReload u).loader = u.loader ∧ (clearForReload u).clock = u.clock := by
    unfold clearForReload
    split
    · exact ⟨rfl, rfl⟩
    · rw [handLink_frame]; exact ⟨rfl, rfl⟩
    · rw [handLink_frame]; exact ⟨rfl, rfl⟩
  obtain ⟨hloader, hclock⟩ := kept
  have hloader : (portOff (emptyBlocks (clearForReload u))).loader = u.loader := hloader
  have hclock : (portOff (emptyBlocks (clearForReload u))).clock = u.clock := hclock
  obtain ⟨b, l, m, hv, hforce, -⟩ := loadGoesOn_beginLoad n (clockOff (portOff (emptyBlocks (clearForReload u))))
  have hoff : (clockOff (portOff (emptyBlocks (clearForReload u)))).loader = u.loader := by
    unfold clockOff
    split <;> exact hloader
  rw [doReload, hv]
  change (clockOff _).clock.lock = .off ∧ ClockOk (clockOff _).clock l.inForce.station
  rw [hforce, hoff]
  obtain ⟨href, hsaved, hbeacons⟩ := hu
  unfold clockOff
  split
  next =>
    refine ⟨rfl, trivial, fun v hv p hp => ?_, nofun⟩
    cases hv
    cases hp
    change ReferenceOk (portOff (emptyBlocks (clearForReload u))).clock.lock
      (portOff (emptyBlocks (clearForReload u))).clock.reference (portOff (emptyBlocks (clearForReload u))).loader.inForce.station
    rw [hclock, hloader]
    exact href
  next hrun =>
    have hnot : u.loader.run ≠ .running := by simpa [isRunning, hloader] using hrun
    rw [hclock]
    exact ⟨hload hnot, href, hsaved, hbeacons⟩

/-- A command keeps the reference station as the lock state has it. -/
theorem exec_clockInvariant {c : Instr} {s t : State} (h : exec c s = .next t) (hs : ClockInvariant s.unit) :
    ClockInvariant t.unit := by
  obtain ⟨hheld, hload, hoff, hclock⟩ := hs
  refine ⟨exec_heldOk h hheld, exec_loadOk h hheld hload, ?_⟩
  change (t.unit.loader.run ≠ .running → t.unit.clock.lock = .off) ∧ ClockOk t.unit.clock t.unit.loader.inForce.station
  by_cases hreset : c = .hardReset
  · subst hreset
    rw [execHardReset_unit h]
    exact ⟨fun _ => rfl, trivial, nofun, nofun⟩
  have ht := exec_effectOf h
  rw [ht]
  by_cases hreload : ∃ n, c = .reload n
  · obtain ⟨n, rfl⟩ := hreload
    rcases effectOf_reload n s.unit with he | ⟨-, he⟩ | ⟨-, he⟩
    · rw [he]; exact ⟨hoff, hclock⟩
    · rw [he]; exact ⟨hoff, hclock⟩
    · obtain ⟨hlock, hok⟩ := doReload_clock n (u := setMaint (takeCommand 0x01 .done) s.unit) hoff hclock
      rw [he]
      exact ⟨fun _ => hlock, hok⟩
  cases hc : writesLoader c with
  | true =>
    rcases effectOf_load hc (fun n hn => hreload ⟨n, hn⟩) hheld hload with he | ⟨hrun, hgo | ⟨w, hw, he⟩⟩
    · rw [he]; exact ⟨hoff, hclock⟩
    · have hlock := hoff (by rw [hrun]; exact nofun)
      obtain ⟨b, l, m, hv, hforce, -⟩ := hgo
      rw [hv]
      change (_ → s.unit.clock.lock = .off) ∧ ClockOk s.unit.clock l.inForce.station
      rw [hforce]
      exact ⟨fun _ => hlock, hclock⟩
    · obtain ⟨b, l, m, rfl, -⟩ := hw
      rw [he]
      exact ⟨fun hne => absurd (endRunning_run _).1 hne, endRunning_clockOk hclock.2.1 hclock.2.2⟩
  | false =>
    have hloader := exec_loader h hreset hc
    rw [ht] at hloader
    rw [hloader]
    cases hk : writesClock c with
    | true =>
      obtain ⟨hok, hlock⟩ := effectOf_clock hk hc hclock
      exact ⟨fun hne => hlock (hoff hne), hok⟩
    | false =>
      have hsame := exec_clock h hreset hk
      rw [ht] at hsame
      rw [hsame]
      exact ⟨hoff, hclock⟩

/-- What every command keeps and the passing of a ds keeps, every step keeps. -/
theorem step_keeps_of_exec {P : Bn24 → Prop} (hexec : ∀ c s t, exec c s = .next t → P s.unit → P t.unit)
    (htick : ∀ u, P u → P (tick u)) {s t : State} (h : step s = .next t) (hs : P s.unit) : P t.unit := by
  rcases step_cases h with ⟨c, r, hr, h⟩ | ht
  · exact hexec c r t h (hr ▸ hs)
  · exact ht ▸ htick _ hs

/-- Settles O57: the quiet by `exec_quietInvariant`, the reference by `exec_clockInvariant`, command by command. -/
theorem everyStepKeepsQuietAndReference : Obligations.EveryStepKeepsQuietAndReference := by
  unfold Obligations.EveryStepKeepsQuietAndReference
  refine ⟨fun s t hs h => ?_, fun s t hs h => ?_⟩
  · refine step_keeps_of_exec (fun c s t => exec_quietInvariant) (fun u hu => ?_) h hs
    obtain ⟨hheld, hrest⟩ := hu
    refine ⟨tick_heldOk hheld, ?_⟩
    rw [tick_frame]
    exact hrest
  · refine step_keeps_of_exec (fun c s t => exec_clockInvariant) (fun u hu => ?_) h hs
    obtain ⟨hheld, hrest⟩ := hu
    refine ⟨tick_heldOk hheld, ?_⟩
    rw [tick_frame]
    exact hrest

end Sys2Proof.Machine
end

section
/-! The entries and the grant slot agree (R3, R4, R79, R89). The grant slot names some entries, each with a service state and an
approach; the entries that are out of WAITING and ARMED are exactly those, as it names them. Each operation is shown to keep
this slot by slot. -/

open Sys2Proof Sys2Proof.Machine

namespace Sys2Proof.Machine

/-! ### What the grant slot says of an entry -/

/-- The service state and the approach that the grant slot gives the entry it names (R79, R89). -/
def namedAs (g : GrantSlot) (r : EntryRef) : Option (Service × ApproachIx) :=
  match g with
  | .free => none
  | .offered o => if o.entry = some r then some (.offered, o.approach) else none
  | .active g => if r ∈ g.members then some (if g.members.head? = some r then .granted else .riding, g.approach) else none

/-- The service state and the approach of a slot's entry, if it holds the key and is out of WAITING and ARMED. -/
def standsAs (x : Option Entry) (k : Key) : Option (Service × ApproachIx) :=
  match x with
  | some e => if e.key = k ∧ evaluable e = false then some (e.service, e.approach) else none
  | none => none

/-- The number of members of a grant, each once (R89). -/
def MembersOk (g : GrantSlot) : Prop :=
  match g with
  | .active g => 1 ≤ g.members.length ∧ g.members.length ≤ Config.memberCapacity ∧ g.members.Nodup
  | .free => True
  | .offered _ => True

/-- A slot's content as the grant slot has it. -/
def SlotOk (g : GrantSlot) (i : SlotIx) (x : Option Entry) : Prop :=
  (∀ e ∈ x, EntryOk e) ∧ ∀ k, namedAs g { slot := i, key := k } = standsAs x k

/-- The grant slot names no entry of a slot. -/
def Unnamed (g : GrantSlot) (i : SlotIx) : Prop := ∀ k, namedAs g { slot := i, key := k } = none

/-- The slots in `S` and the grant slot agree, and join requests wait only while a grant is ACTIVE. -/
structure AgreedOn (S : SlotIx → Prop) (u : Bn24) : Prop where
  members : MembersOk u.arbiter.slot
  slots : ∀ i, S i → SlotOk u.arbiter.slot i (entryIn u i)
  joins : u.arbiter.joins ≠ [] → ∃ g, u.arbiter.slot = .active g

/-- Every slot agrees with the grant slot. -/
abbrev Agreed (u : Bn24) : Prop := AgreedOn (fun _ => True) u

theorem namedAs_offered {o : Offer} {r : EntryRef} {p : Service × ApproachIx} :
    namedAs (.offered o) r = some p ↔ o.entry = some r ∧ (.offered, o.approach) = p := by
  simp [namedAs]

theorem namedAs_active {g : Grant} {r : EntryRef} {p : Service × ApproachIx} :
    namedAs (.active g) r = some p ↔
      r ∈ g.members ∧ (if g.members.head? = some r then .granted else .riding, g.approach) = p := by
  simp [namedAs]

theorem standsAs_of_evaluable {e : Entry} (h : evaluable e = true) (k : Key) : standsAs (some e) k = none := by
  simp [standsAs, h]

theorem standsAs_of_busy {e : Entry} (h : evaluable e = false) (k : Key) :
    standsAs (some e) k = if e.key = k then some (e.service, e.approach) else none := by
  simp [standsAs, h]

theorem evaluable_iff (e : Entry) : evaluable e = true ↔ e.service = .waiting ∨ e.service = .armed := by
  simp [evaluable]

theorem evaluable_toWaiting (e : Entry) : evaluable (toWaiting e) = true := rfl

/-- The grant slot names no entry as WAITING or ARMED. -/
theorem namedAs_busy {g : GrantSlot} {r : EntryRef} {p : Service × ApproachIx} (h : namedAs g r = some p) :
    p.1 ≠ .waiting ∧ p.1 ≠ .armed := by
  unfold namedAs at h
  split at h
  · cases h
  · split at h
    · cases h; simp
    · cases h
  · split at h
    · cases h; dsimp only; split <;> simp
    · cases h

/-- A slot that agrees holds, under the key that the grant slot names, an entry as named. -/
theorem SlotOk.named {g : GrantSlot} {i : SlotIx} {x : Option Entry} {k : Key} {p : Service × ApproachIx} (h : SlotOk g i x)
    (hp : namedAs g { slot := i, key := k } = some p) : ∃ e, x = some e ∧ e.key = k ∧ e.service = p.1 ∧ e.approach = p.2 := by
  rw [h.2 k] at hp
  unfold standsAs at hp
  split at hp
  next e =>
    split at hp
    next hk => cases hp; exact ⟨e, rfl, hk.1, rfl, rfl⟩
    next => cases hp
  next => cases hp

/-- A WAITING or ARMED entry of a slot that agrees is not named. -/
theorem SlotOk.unnamed {g : GrantSlot} {i : SlotIx} {x : Option Entry} (h : SlotOk g i x) (hx : ∀ e ∈ x, evaluable e = true) :
    Unnamed g i := fun k => by
  rw [h.2 k]
  cases x with
  | none => rfl
  | some e => exact standsAs_of_evaluable (hx e rfl) k

/-- An empty slot, or one with a WAITING or ARMED entry, agrees where it is not named. -/
theorem Unnamed.slotOk {g : GrantSlot} {i : SlotIx} {x : Option Entry} (h : Unnamed g i)
    (hx : ∀ e ∈ x, EntryOk e ∧ evaluable e = true) : SlotOk g i x := by
  refine ⟨fun e he => (hx e he).1, fun k => ?_⟩
  rw [h k]
  cases x with
  | none => rfl
  | some e => exact (standsAs_of_evaluable (hx e rfl).2 k).symm

theorem unnamed_free (i : SlotIx) : Unnamed .free i := fun _ => rfl

/-- Once the slot is FREE an agreeing slot's entry is WAITING or ARMED. -/
theorem SlotOk.evaluable_of_free {i : SlotIx} {x : Option Entry} (h : SlotOk .free i x) (e : Entry) (he : e ∈ x) :
    evaluable e = true := by
  have hrole := h.2 e.key
  cases he
  by_contra hne
  simp [namedAs, standsAs, hne] at hrole

/-- An entry that keeps its key, its service state and its approach keeps its role. -/
theorem SlotOk.rewritten {g : GrantSlot} {i : SlotIx} {e f : Entry} (h : SlotOk g i (some e)) (hf : EntryOk f)
    (hkey : f.key = e.key) (hservice : f.service = e.service) (happroach : f.approach = e.approach) :
    SlotOk g i (some f) := by
  refine ⟨by rintro _ ⟨⟩; exact hf, fun k => ?_⟩
  rw [h.2 k]
  simp [standsAs, evaluable, hkey, hservice, happroach]

/-! ### The invariant slot by slot -/

/-- The entry that the grant slot names is as named (R79, R89). -/
theorem named_at {u : Bn24} {r : EntryRef} {p : Service × ApproachIx}
    (h : match u.arbiter.slot with
      | .free => True
      | .offered o => OfferOk u o
      | .active g => GrantOk u g)
    (hp : namedAs u.arbiter.slot r = some p) : ∃ e, entryAt u r = some e ∧ e.service = p.1 ∧ e.approach = p.2 := by
  cases hslot : u.arbiter.slot with
  | free => rw [hslot] at hp; cases hp
  | offered o =>
    rw [hslot] at h hp
    obtain ⟨hr, rfl⟩ := namedAs_offered.mp hp
    exact h r hr
  | active g =>
    rw [hslot] at h hp
    obtain ⟨-, -, -, hmembers⟩ := h
    obtain ⟨hr, rfl⟩ := namedAs_active.mp hp
    obtain ⟨e, he, ha, hs⟩ := hmembers r hr
    exact ⟨e, he, hs, ha⟩

/-- An entry out of WAITING and ARMED that belongs to the offer or the grant is named by it. -/
theorem belongs_named {u : Bn24} {i : SlotIx} {e : Entry} (h : BelongsOk u i e) (hbusy : evaluable e = false) :
    namedAs u.arbiter.slot { slot := i, key := e.key } ≠ none := by
  cases hs : e.service <;> cases hslot : u.arbiter.slot
  all_goals simp_all [BelongsOk, namedAs, evaluable]

/-- The agreement of every slot is what the statement spells out (R3, R4, R79, R89). -/
theorem agreed_iff (u : Bn24) : Agreed u ↔ (∀ i : SlotIx, ∀ e ∈ entryIn u i, EntryOk e) ∧ ArbiterOk u := by
  constructor
  · rintro ⟨hmembers, hslots, hjoins⟩
    have at_of {r : EntryRef} {p : Service × ApproachIx} (hp : namedAs u.arbiter.slot r = some p) :
        ∃ e ∈ entryAt u r, e.approach = p.2 ∧ e.service = p.1 := by
      obtain ⟨e, he, hk, hs, ha⟩ := (hslots r.slot trivial).named hp
      exact ⟨e, (entryAt_eq_some u r e).mpr ⟨he, hk⟩, ha, hs⟩
    refine ⟨fun i => (hslots i trivial).1, ?_, fun i e he => ?_, hjoins⟩
    · cases hslot : u.arbiter.slot with
      | free => trivial
      | offered o =>
        intro r hr
        obtain ⟨e, he, ha, hs⟩ := at_of (r := r) (p := (.offered, o.approach))
          (by rw [hslot]; exact if_pos hr)
        exact ⟨e, he, hs, ha⟩
      | active g =>
        rw [hslot] at hmembers
        obtain ⟨hpos, hmax, hnodup⟩ := hmembers
        exact ⟨hpos, hmax, hnodup, fun r hr => at_of (by rw [hslot]; exact if_pos hr)⟩
    · have hrole := (hslots i trivial).2 e.key
      rw [he] at hrole
      cases hs : e.service <;> cases hslot : u.arbiter.slot
      all_goals simp_all [BelongsOk, namedAs, standsAs, evaluable]
      obtain ⟨-, hservice, -⟩ := hrole
      split at hservice <;> cases hservice
  · rintro ⟨hentries, hslot, hbelongs, hjoins⟩
    have hmembers : MembersOk u.arbiter.slot := by
      cases hs : u.arbiter.slot with
      | free => trivial
      | offered o => trivial
      | active g =>
        rw [hs] at hslot
        obtain ⟨hpos, hmax, hnodup, -⟩ := hslot
        exact ⟨hpos, hmax, hnodup⟩
    refine ⟨hmembers, fun i _ => ⟨hentries i, fun k => ?_⟩, hjoins⟩
    cases hp : namedAs u.arbiter.slot { slot := i, key := k } with
    | some p =>
      obtain ⟨e, he, hs, ha⟩ := named_at hslot hp
      obtain ⟨hin, hk⟩ := (entryAt_eq_some u _ e).mp he
      obtain ⟨hw, harmed⟩ := namedAs_busy hp
      have hbusy : evaluable e = false := by simp [evaluable, hs, hw, harmed]
      rw [hin, standsAs_of_busy hbusy, if_pos hk, hs, ha]
    | none =>
      symm
      cases he : entryIn u i with
      | none => rfl
      | some e =>
        refine if_neg ?_
        rintro ⟨rfl, hbusy⟩
        exact belongs_named (hbelongs i e he) hbusy hp

/-! ### Writes of slots and of the grant slot -/

/-- What neither slots nor grant slot nor join requests see. -/
theorem AgreedOn.congr {S : SlotIx → Prop} {u v : Bn24} (h : AgreedOn S u) (hslots : v.table.slots = u.table.slots)
    (hgrant : v.arbiter.slot = u.arbiter.slot) (hjoins : v.arbiter.joins = u.arbiter.joins) : AgreedOn S v := by
  obtain ⟨hm, hs, hj⟩ := h
  refine ⟨hgrant ▸ hm, fun i hi => ?_, by rw [hgrant, hjoins]; exact hj⟩
  rw [hgrant, entryIn_congr hslots i]
  exact hs i hi

theorem AgreedOn.mono {S T : SlotIx → Prop} {u : Bn24} (h : AgreedOn S u) (hT : ∀ i, T i → S i) : AgreedOn T u :=
  ⟨h.members, fun i hi => h.slots i (hT i hi), h.joins⟩

/-- One slot is written as the grant slot has it. -/
theorem AgreedOn.setSlot {i : SlotIx} {x : Option Entry} {u : Bn24} (h : AgreedOn (· ≠ i) u)
    (hx : SlotOk u.arbiter.slot i x) : Agreed (setSlot i x u) := by
  refine ⟨h.members, fun j _ => ?_, h.joins⟩
  rw [entryIn_setSlot]
  split
  next hij => exact hij ▸ hx
  next hij => exact h.slots j (Ne.symm hij)

/-- A slot outside those that agree may be written in any way. -/
theorem AgreedOn.setSlot_outside {S : SlotIx → Prop} {i : SlotIx} {x : Option Entry} {u : Bn24} (h : AgreedOn S u)
    (hi : ¬ S i) : AgreedOn S (Machine.setSlot i x u) := by
  refine ⟨h.members, fun j hj => ?_, h.joins⟩
  rw [entryIn_setSlot, if_neg fun hij : i = j => hi (hij ▸ hj)]
  exact h.slots j hj

/-- An entry in an agreeing table, with its slot. -/
theorem AgreedOn.slot_some {u : Bn24} (h : Agreed u) {i : SlotIx} {e : Entry} (he : entryIn u i = some e) :
    SlotOk u.arbiter.slot i (some e) := he ▸ h.slots i trivial

/-- A WAITING or ARMED entry gives way to another, or to none. -/
theorem AgreedOn.replace {u : Bn24} (h : Agreed u) {i : SlotIx} (hi : ∀ e ∈ entryIn u i, evaluable e = true)
    {x : Option Entry} (hx : ∀ e ∈ x, EntryOk e ∧ evaluable e = true) : Agreed (Machine.setSlot i x u) :=
  (h.mono fun _ _ => trivial).setSlot (((h.slots i trivial).unnamed hi).slotOk hx)

/-- While the slot is FREE no join request waits. -/
theorem AgreedOn.joins_of_free {S : SlotIx → Prop} {u : Bn24} (h : AgreedOn S u) (hfree : u.arbiter.slot = .free) :
    u.arbiter.joins = [] := by
  by_contra hne
  obtain ⟨g, hg⟩ := h.joins hne
  rw [hfree] at hg
  cases hg

/-- Writing what a slot holds changes nothing. -/
theorem setSlot_of_entryIn {i : SlotIx} {x : Option Entry} {u : Bn24} (h : entryIn u i = x) : setSlot i x u = u :=
  h ▸ setSlot_self i u

/-! ### Selection -/

/-- The arbiter's offer of a selected entry (R79). -/
theorem issueOffer_agreed {S : SlotIx → Prop} {u : Bn24} (h : AgreedOn S u) (hfree : u.arbiter.slot = .free) {d : Candidate}
    (hd : entryIn u d.slot = some d.entry) (harmed : d.entry.service = .armed) (hS : S d.slot) :
    AgreedOn S (issueOffer d u) ∧ ∀ i, ¬ S i → Unnamed (issueOffer d u).arbiter.slot i := by
  obtain ⟨x, y, hf⟩ := issueOffer_frame d u
  obtain ⟨o, ho, hentry, happroach⟩ : ∃ o, (issueOffer d u).arbiter.slot = .offered o
      ∧ o.entry = some { slot := d.slot, key := d.entry.key } ∧ o.approach = d.entry.approach := by
    rw [hf]
    exact ⟨_, rfl, rfl, rfl⟩
  have hin (i : SlotIx) : entryIn (issueOffer d u) i
      = if d.slot = i then some { d.entry with service := .offered } else entryIn u i := by
    rw [hf]
    exact entryIn_setSlot d.slot i _ u
  have hjoins : (issueOffer d u).arbiter.joins = [] := by
    rw [hf]
    exact h.joins_of_free hfree
  have hok : EntryOk d.entry := (h.slots d.slot hS).1 d.entry hd
  have unnamed (i : SlotIx) (hi : i ≠ d.slot) : Unnamed (issueOffer d u).arbiter.slot i := fun k => by
    rw [ho, namedAs, hentry, if_neg]
    intro heq
    exact hi (congrArg EntryRef.slot (Option.some.inj heq)).symm
  refine ⟨⟨by rw [ho]; trivial, fun i hi => ?_, fun hne => absurd hjoins hne⟩, fun i hi => unnamed i fun hid => hi (hid ▸ hS)⟩
  by_cases hid : d.slot = i
  · subst hid
    rw [hin, if_pos rfl, ho]
    refine ⟨?_, fun k => ?_⟩
    · rintro _ ⟨⟩
      obtain ⟨hdec, hwin, hqual, hg, hc, hnw⟩ := hok
      exact ⟨by simpa [harmed] using hdec, hwin, hqual, hg, hc, fun _ => hnw (by simp [harmed])⟩
    · rw [standsAs_of_busy rfl, namedAs, hentry, happroach]
      simp
  · rw [hin, if_neg hid]
    refine (unnamed i (Ne.symm hid)).slotOk fun e he => ?_
    have hslot := h.slots i hi
    rw [hfree] at hslot
    exact ⟨hslot.1 e he, hslot.evaluable_of_free e he⟩

/-- A selection keeps agreement, the slots aside holding no ARMED entry, and names none of these (R78, R79). -/
theorem selection_agreed {S : SlotIx → Prop} {u : Bn24} (h : AgreedOn S u)
    (hS : ∀ i, ¬ S i → Unnamed u.arbiter.slot i ∧ ∀ e ∈ entryIn u i, e.service ≠ .armed) :
    AgreedOn S (selection u) ∧ ∀ i, ¬ S i → Unnamed (selection u).arbiter.slot i := by
  rcases selection_cases u with heq | ⟨d, hd, hfree, -, -, heq⟩
  · rw [heq]
    exact ⟨h, fun i hi => (hS i hi).1⟩
  · obtain ⟨hin, harmed, -⟩ := selected_spec u d hd
    rw [heq]
    refine issueOffer_agreed h hfree hin harmed ?_
    by_contra hd
    exact (hS d.slot hd).2 d.entry hin harmed

theorem AgreedOn.selection {u : Bn24} (h : Agreed u) : Agreed (selection u) :=
  (selection_agreed h fun _ hi => absurd trivial hi).1

/-! ### The end of a grant -/

/-- With no entry out of WAITING and ARMED the slot may be FREE. -/
theorem agreedOn_free {S : SlotIx → Prop} {u : Bn24}
    (hslots : ∀ i, S i → ∀ e ∈ entryIn u i, EntryOk e ∧ evaluable e = true) (hfree : u.arbiter.slot = .free)
    (hjoins : u.arbiter.joins = []) : AgreedOn S u := by
  refine ⟨by rw [hfree]; trivial, fun i hi => ?_, fun hne => absurd hjoins hne⟩
  rw [hfree]
  exact (unnamed_free i).slotOk (hslots i hi)

/-- The grant has ended, no entry being out of WAITING and ARMED (R93, R94). -/
theorem grantEnded_agreed {S : SlotIx → Prop} {u : Bn24} (g : Grant)
    (hslots : ∀ i, S i → ∀ e ∈ entryIn u i, EntryOk e ∧ evaluable e = true)
    (hS : ∀ i, ¬ S i → ∀ e ∈ entryIn u i, e.service ≠ .armed) :
    AgreedOn S (grantEnded g u) ∧ ∀ i, ¬ S i → Unnamed (grantEnded g u).arbiter.slot i := by
  have hin (i : SlotIx) : entryIn (evaluateApproach g.approach (freeGrant u)) i = entryIn u i := by
    rw [evaluateApproach, entryIn_sendTable]
    rfl
  have hfree : (evaluateApproach g.approach (freeGrant u)).arbiter.slot = .free := by
    rw [evaluateApproach, sendTable_frame]
    rfl
  refine selection_agreed (agreedOn_free (fun i hi => by rw [hin]; exact hslots i hi) hfree ?_) fun i hi => ⟨?_, ?_⟩
  · rw [evaluateApproach, sendTable_frame]
    rfl
  · rw [hfree]
    exact unnamed_free i
  · rw [hin]
    exact hS i hi

/-! ### Members that leave -/

/-- The members that stay keep their places, and the first of them is the holder (R89, R91). -/
theorem namedAs_without {g : Grant} {r : EntryRef} {m : EntryRef} {rest : List EntryRef}
    (hrest : g.members.filter (fun n => decide (n ≠ r)) = m :: rest) {q : EntryRef} (hq : q ≠ r) :
    namedAs (.active { g with members := m :: rest }) q =
      if q = m then some (.granted, g.approach)
      else if q ∈ g.members then some (.riding, g.approach) else none := by
  have hmem : q ∈ m :: rest ↔ q ∈ g.members := by
    rw [← hrest, List.mem_filter]
    simp [hq]
  simp only [namedAs, hmem, List.head?_cons, Option.some.injEq, eq_comm (a := m)]
  by_cases hm : q = m
  · have hin : q ∈ g.members := hmem.mp (hm ▸ List.mem_cons_self)
    simp [hm ▸ hin, hm]
  · simp [hm]

/-- While the holder stays, the first of the others is the holder still. -/
theorem head_without {members : List EntryRef} {r m : EntryRef} {rest : List EntryRef}
    (hrest : members.filter (fun n => decide (n ≠ r)) = m :: rest) (hr : members.head? ≠ some r) :
    members.head? = some m := by
  cases members with
  | nil => simp at hrest
  | cons a tail =>
    have ha : a ≠ r := fun h => hr (by simp [h])
    rw [List.filter_cons, if_pos (by simpa using ha)] at hrest
    rw [List.head?_cons, (List.cons.inj hrest).1]

/-- The promoted rider stands as the holder (R89, R91). -/
theorem entryOk_promote (g : Grant) {e : Entry} (h : EntryOk e) (hs : e.service ≠ .waiting) : EntryOk (promote g e) := by
  obtain ⟨-, hwin, hqual, hgrade, hchain, hbusy⟩ := h
  exact ⟨by simp [promote], hwin, hqual, hgrade, hchain, fun _ => hbusy hs⟩

/-- A member has left: a slot that agreed does so with the members that stay, its entry promoted if it succeeds (R91). -/
theorem slotOk_promoted {g : Grant} {r m : EntryRef} {rest : List EntryRef} {i : SlotIx} {x : Option Entry}
    (h : SlotOk (.active g) i x) (hi : ∀ k, ({ slot := i, key := k } : EntryRef) ≠ r)
    (hrest : g.members.filter (fun n => decide (n ≠ r)) = m :: rest) (hm : m ∈ g.members ∧ m ≠ r) :
    SlotOk (.active { g with members := m :: rest }) i
      (x.map fun e => if g.members.head? = some r ∧ m = { slot := i, key := e.key } then promote g e else e) := by
  obtain ⟨hmem, hmr⟩ := hm
  have holder : g.members.head? ≠ some r → g.members.head? = some m := head_without hrest
  have rider (k : Key) (hk : ({ slot := i, key := k } : EntryRef) ≠ m) :
      namedAs (.active { g with members := m :: rest }) { slot := i, key := k } = namedAs (.active g) { slot := i, key := k } := by
    have hhead : g.members.head? ≠ some { slot := i, key := k } := fun hhead => by
      have hr : g.members.head? ≠ some r := fun h => hi k (Option.some.inj (hhead.symm.trans h))
      exact hk (Option.some.inj (hhead.symm.trans (holder hr)))
    rw [namedAs_without hrest (hi k), if_neg hk, namedAs, if_neg hhead]
  cases x with
  | none =>
    refine ⟨nofun, fun k => ?_⟩
    have hnone : ({ slot := i, key := k } : EntryRef) ≠ m := fun hk => by
      have hrole := h.2 k
      rw [hk, namedAs, if_pos hmem] at hrole
      cases hrole
    rw [rider k hnone]
    exact h.2 k
  | some e =>
    by_cases hsuccessor : m = { slot := i, key := e.key }
    · obtain ⟨f, hf, -, hservice, happroach⟩ := h.named (k := e.key) (hsuccessor ▸ namedAs_active.mpr ⟨hmem, rfl⟩)
      cases hf
      have others {k : Key} (hk : k ≠ e.key) : ({ slot := i, key := k } : EntryRef) ≠ m := fun hkm => by
        rw [hsuccessor] at hkm
        exact hk (congrArg EntryRef.key hkm)
      have heldBy : namedAs (.active { g with members := m :: rest }) { slot := i, key := e.key } = some (.granted, g.approach) := by
        rw [namedAs_without hrest (hi _), if_pos hsuccessor.symm]
      by_cases hr : g.members.head? = some r
      · have hsame : (if g.members.head? = some r ∧ m = { slot := i, key := e.key } then promote g e else e) = promote g e :=
          if_pos ⟨hr, hsuccessor⟩
        have hriding : e.service = .riding := by
          rw [hservice, ← hsuccessor, hr]
          exact if_neg fun hrm => hmr (Option.some.inj hrm).symm
        rw [Option.map_some, hsame]
        refine ⟨by rintro _ ⟨⟩; exact entryOk_promote g (h.1 e rfl) (by simp [hriding]), fun k => ?_⟩
        rw [standsAs_of_busy rfl]
        by_cases hk : k = e.key
        · subst hk
          rw [heldBy, promote_key, if_pos rfl, promote_service, promote_approach, happroach]
        · rw [rider k (others hk), h.2 k, promote_key, if_neg (Ne.symm hk)]
          exact if_neg fun hc => hk hc.1.symm
      · have hsame : (if g.members.head? = some r ∧ m = { slot := i, key := e.key } then promote g e else e) = e :=
          if_neg fun hc => hr hc.1
        rw [Option.map_some, hsame]
        refine ⟨h.1, fun k => ?_⟩
        by_cases hk : k = e.key
        · subst hk
          rw [heldBy, ← h.2 e.key, ← hsuccessor, namedAs, if_pos hmem, if_pos (holder hr)]
        · rw [rider k (others hk)]
          exact h.2 k
    · have hsame : (if g.members.head? = some r ∧ m = { slot := i, key := e.key } then promote g e else e) = e :=
        if_neg fun hc => hsuccessor hc.2
      rw [Option.map_some, hsame]
      refine ⟨h.1, fun k => ?_⟩
      by_cases hk : ({ slot := i, key := k } : EntryRef) = m
      · obtain ⟨f, hf, hfk, -⟩ := h.named (k := k) (hk ▸ namedAs_active.mpr ⟨hmem, rfl⟩)
        cases hf
        exact absurd (hfk ▸ hk.symm) hsuccessor
      · rw [rider k hk]
        exact h.2 k

/-- A member leaves: its own slot aside, whose entry is not ARMED and which the grant names by the leaver's key only, all agree
again, and the leaver is named no more (R91, R93). -/
theorem memberLeaves_agreed {r : EntryRef} {u : Bn24} (h : AgreedOn (· ≠ r.slot) u) {g : Grant} (hg : u.arbiter.slot = .active g)
    (hown : ∀ k, k ≠ r.key → { slot := r.slot, key := k } ∉ g.members)
    (hunarmed : ∀ e ∈ entryIn u r.slot, e.service ≠ .armed) :
    AgreedOn (· ≠ r.slot) (memberLeaves r u) ∧ Unnamed (memberLeaves r u).arbiter.slot r.slot := by
  obtain ⟨hmembers, hslots, hjoins⟩ := h
  rw [hg] at hmembers hslots
  obtain ⟨-, hmax, hnodup⟩ := hmembers
  have outside {i : SlotIx} (hi : i ≠ r.slot) (k : Key) : ({ slot := i, key := k } : EntryRef) ≠ r := by
    rintro rfl
    exact hi rfl
  rcases memberLeaves_cases r u with ⟨-, hno⟩ | ⟨g', hg', ⟨hlast, heq⟩ | ⟨m, rest, hrest, heq⟩⟩
  · exact absurd hg (hno g)
  · obtain rfl : g = g' := by rw [hg] at hg'; cases hg'; rfl
    have hend := grantEnded_agreed (S := (· ≠ r.slot)) (u := handLink (.clear g.id) u) g (fun i hi e he => ?_) (fun i hi e he => ?_)
    · rw [heq]
      exact ⟨hend.1, hend.2 r.slot (by simp)⟩
    · rw [entryIn_handLink] at he
      have hslot := hslots i hi
      rw [he] at hslot
      refine ⟨hslot.1 e rfl, ?_⟩
      have hnot : { slot := i, key := e.key } ∉ g.members := fun hin => by
        have : ({ slot := i, key := e.key } : EntryRef) ∈ g.members.filter (fun n => decide (n ≠ r)) :=
          List.mem_filter.mpr ⟨hin, by simpa using outside hi e.key⟩
        rw [hlast] at this
        cases this
      have hrole := hslot.2 e.key
      by_contra hbusy
      simp [namedAs, hnot, standsAs, hbusy] at hrole
    · rw [entryIn_handLink] at he
      obtain rfl : i = r.slot := not_not.mp hi
      exact hunarmed e he
  · obtain rfl : g = g' := by rw [hg] at hg'; cases hg'; rfl
    have hm : m ∈ g.members ∧ m ≠ r := by
      have : m ∈ g.members.filter (fun n => decide (n ≠ r)) := by rw [hrest]; exact List.mem_cons_self
      simpa using List.mem_filter.mp this
    have hgrant : (memberLeaves r u).arbiter.slot = .active { g with members := m :: rest } := by
      rw [heq]
      split
      · rw [modifyEntry_frame]; rfl
      · rfl
    have hin (i : SlotIx) : entryIn (memberLeaves r u) i = (entryIn u i).map fun e =>
        if g.members.head? = some r ∧ m = { slot := i, key := e.key } then promote g e else e := by
      rw [heq]
      split
      next hhead =>
        rw [entryIn_modifyEntry]
        simp [hhead]
        rfl
      next hhead =>
        simp [hhead]
        rfl
    have hlen : (m :: rest).length ≤ g.members.length := hrest ▸ List.length_filter_le ..
    refine ⟨⟨?_, fun i hi => ?_, fun _ => ⟨_, hgrant⟩⟩, fun k => ?_⟩
    · rw [hgrant]
      exact ⟨by simp, hlen.trans hmax, hrest ▸ hnodup.filter _⟩
    · rw [hgrant, hin]
      exact slotOk_promoted (hslots i hi) (outside hi) hrest hm
    · rw [hgrant]
      refine if_neg fun hk => ?_
      rw [← hrest, List.mem_filter] at hk
      obtain ⟨hmem, hne⟩ := hk
      by_cases hkey : k = r.key
      · exact of_decide_eq_true hne (by rw [hkey])
      · exact hown k hkey hmem

/-! ### Removal and update -/

/-- An offer that has lost its entry names none (R80). -/
theorem namedAs_abandoned (o : Offer) (r : EntryRef) : namedAs (.offered { o with entry := none }) r = none := by
  simp [namedAs]

/-- What names an entry gives a busy entry of an agreeing table its service state and its approach. -/
theorem AgreedOn.named {u : Bn24} (h : Agreed u) {i : SlotIx} {e : Entry} (he : entryIn u i = some e)
    (hbusy : evaluable e = false) : namedAs u.arbiter.slot { slot := i, key := e.key } = some (e.service, e.approach) := by
  rw [(h.slot_some he).2 e.key, standsAs_of_busy hbusy, if_pos rfl]

/-- An entry named by the grant slot is named under no other key. -/
theorem AgreedOn.named_once {u : Bn24} (h : Agreed u) {i : SlotIx} {e : Entry} (he : entryIn u i = some e) {k : Key}
    (hk : k ≠ e.key) : namedAs u.arbiter.slot { slot := i, key := k } = none := by
  rw [(h.slot_some he).2 k]
  exact if_neg fun hc => hk hc.1.symm

/-- An offered entry is given up: its slot aside, all agree, and it is named no more (R80). -/
theorem abandonOffer_agreed {u : Bn24} (h : Agreed u) {i : SlotIx} {e : Entry} (he : entryIn u i = some e)
    (hs : e.service = .offered) : AgreedOn (· ≠ i) (abandonOffer u) ∧ Unnamed (abandonOffer u).arbiter.slot i := by
  have hnamed := h.named he (by simp [evaluable, hs])
  cases hslot : u.arbiter.slot with
  | free => rw [hslot] at hnamed; cases hnamed
  | active g =>
    rw [hslot] at hnamed
    obtain ⟨-, hp⟩ := namedAs_active.mp hnamed
    have hservice := congrArg Prod.fst hp
    rw [hs] at hservice
    dsimp only at hservice
    split at hservice <;> cases hservice
  | offered o =>
    rw [hslot] at hnamed
    obtain ⟨hentry, -⟩ := namedAs_offered.mp hnamed
    have heq : abandonOffer u = setGrant (.offered { o with entry := none }) u := by simp [abandonOffer, hslot]
    rw [heq]
    refine ⟨⟨trivial, fun j hj => ?_, fun hne => ?_⟩, fun k => namedAs_abandoned o _⟩
    · have hj' := h.slots j trivial
      refine ⟨hj'.1, fun k => ?_⟩
      rw [setGrant_arbiter_slot, namedAs_abandoned]
      symm
      refine (hj'.2 k).symm.trans ?_
      rw [hslot, namedAs, hentry, if_neg]
      intro heq
      exact hj (congrArg EntryRef.slot (Option.some.inj heq)).symm
    · obtain ⟨g, hg⟩ := h.joins hne
      rw [hslot] at hg
      cases hg

/-- A member's service state comes with an ACTIVE slot, whose members it is among (R89). -/
theorem AgreedOn.member {u : Bn24} (h : Agreed u) {i : SlotIx} {e : Entry} (he : entryIn u i = some e)
    (hs : e.service = .granted ∨ e.service = .riding) :
    ∃ g, u.arbiter.slot = .active g ∧ e.approach = g.approach ∧ { slot := i, key := e.key } ∈ g.members
      ∧ ∀ k, k ≠ e.key → { slot := i, key := k } ∉ g.members := by
  have hnamed := h.named he (by rcases hs with hs | hs <;> simp [evaluable, hs])
  cases hslot : u.arbiter.slot with
  | free => rw [hslot] at hnamed; cases hnamed
  | offered o =>
    rw [hslot] at hnamed
    obtain ⟨-, hp⟩ := namedAs_offered.mp hnamed
    have hservice := congrArg Prod.fst hp
    rcases hs with hs | hs <;> simp [hs] at hservice
  | active g =>
    rw [hslot] at hnamed
    obtain ⟨hmem, hp⟩ := namedAs_active.mp hnamed
    refine ⟨g, rfl, (congrArg Prod.snd hp).symm, hmem, fun k hk hin => ?_⟩
    have hnone := h.named_once he hk
    rw [hslot, namedAs, if_pos hin] at hnone
    cases hnone

/-- A member leaves with its entry in place, or with another one in its slot that is not ARMED: its slot aside, all agree. -/
theorem AgreedOn.memberLeaves {u : Bn24} (h : Agreed u) {i : SlotIx} {e : Entry} (he : entryIn u i = some e)
    (hs : e.service = .granted ∨ e.service = .riding) {x : Option Entry} (hx : ∀ f ∈ x, f.service ≠ .armed) :
    AgreedOn (· ≠ i) (memberLeaves { slot := i, key := e.key } (Machine.setSlot i x u))
      ∧ Unnamed (memberLeaves { slot := i, key := e.key } (Machine.setSlot i x u)).arbiter.slot i := by
  obtain ⟨g, hg, -, -, hown⟩ := h.member he hs
  have houtside : AgreedOn (· ≠ i) (Machine.setSlot i x u) := (h.mono fun _ _ => trivial).setSlot_outside (by simp)
  refine memberLeaves_agreed (r := { slot := i, key := e.key }) houtside hg hown fun f hf => ?_
  simp only [entryIn_setSlot, if_true] at hf
  exact hx f hf

/-- Before an entry is removed the arbiter has let it go: its slot aside, all agree, and it is named no more (R25). -/
theorem notifyRemoval_agreed {u : Bn24} (h : Agreed u) {i : SlotIx} {e : Entry} (he : entryIn u i = some e) :
    AgreedOn (· ≠ i) (notifyRemoval i e u) ∧ Unnamed (notifyRemoval i e u).arbiter.slot i := by
  have idle (hs : evaluable e = true) : AgreedOn (· ≠ i) u ∧ Unnamed u.arbiter.slot i :=
    ⟨h.mono fun _ _ => trivial, (h.slots i trivial).unnamed fun f hf => by rw [he] at hf; cases hf; exact hs⟩
  have leaves (hs : e.service = .granted ∨ e.service = .riding) :
      AgreedOn (· ≠ i) (memberLeaves { slot := i, key := e.key } u)
        ∧ Unnamed (memberLeaves { slot := i, key := e.key } u).arbiter.slot i := by
    have hleft := h.memberLeaves he hs (x := some e) (by rintro _ ⟨⟩; rcases hs with hs | hs <;> simp [hs])
    rwa [← he, setSlot_self] at hleft
  unfold notifyRemoval
  cases hs : e.service with
  | waiting => exact idle (by simp [evaluable, hs])
  | armed => exact idle (by simp [evaluable, hs])
  | offered => exact abandonOffer_agreed h he hs
  | granted => exact leaves (.inl hs)
  | riding => exact leaves (.inr hs)

theorem AgreedOn.removeEntry {u : Bn24} (h : Agreed u) {i : SlotIx} {e : Entry} (he : entryIn u i = some e) :
    Agreed (removeEntry i e u) := by
  obtain ⟨hothers, hown⟩ := notifyRemoval_agreed h he
  exact hothers.setSlot (hown.slotOk nofun)

theorem AgreedOn.sendTable {S : SlotIx → Prop} {u : Bn24} (h : AgreedOn S u) (rs : List TableRequest) :
    AgreedOn S (sendTable rs u) := by
  rw [sendTable_frame]
  exact h.congr rfl rfl rfl

/-- An entry that is out of WAITING only with a grade and a window (R70, R78). -/
theorem entryOk_toWaiting {e : Entry} (hconf : e.confirmation = .confirmed → e.window.isSome = true)
    (hqual : e.quality.isSome = true ↔ e.confirmation = .forecast ∧ e.window.isSome = true) (hgrade : e.grade ≤ 15)
    (hchain : e.chain ≤ 15) : EntryOk (toWaiting e) :=
  ⟨by simp [toWaiting], hconf, hqual, hgrade, hchain, fun h => absurd rfl h⟩

/-- A standing call and a fit need a grade and a window (R62, R68). -/
theorem fits_busy {u : Bn24} {g : Grant} {holder : Bool} {e : Entry} (h : fitsGrant u g holder e = true) :
    1 ≤ e.grade ∧ e.window.isSome = true ∧ e.approach = g.approach := by
  unfold fitsGrant at h
  split at h
  · cases h
  next w hw =>
    simp only [Bool.and_eq_true, decide_eq_true_eq] at h
    exact ⟨h.1.1, by simp [hw], h.1.2⟩

theorem call_busy {u : Bn24} {e : Entry} {d : Decision} (h : verdictOf u e = .call d) : 1 ≤ e.grade ∧ e.window.isSome = true := by
  unfold verdictOf at h
  split at h
  · cases h
  next v _ =>
    split at h
    · cases h
    next hheld =>
      split at h
      · cases h
      next w hw =>
        refine ⟨?_, by simp [hw]⟩
        by_contra hzero
        have hzero : e.grade = 0 := by omega
        exact hheld (by simp [holdTest, hzero])

/-- An entry with its forecast fields rewritten keeps what its service state asks of its decision; out of WAITING it needs a
grade and a window (R3). -/
theorem entryOk_rewritten {old new : Entry} (hold : EntryOk old) (hok : EntryOk (toWaiting new)) (hservice : new.service = old.service)
    (hdecision : new.decision = old.decision) (hbusy : new.service ≠ .waiting → 1 ≤ new.grade ∧ new.window.isSome = true) :
    EntryOk new := by
  obtain ⟨hdec, -⟩ := hold
  obtain ⟨-, hconf, hqual, hgrade, hchain, -⟩ := hok
  exact ⟨by rw [hservice, hdecision]; exact hdec, hconf, hqual, hgrade, hchain, hbusy⟩

/-- The update of an entry (R16, R17, R23). -/
theorem AgreedOn.rewriteEntry {u : Bn24} (h : Agreed u) {i : SlotIx} {old new : Entry} {stands : Bool} (he : entryIn u i = some old)
    (hok : EntryOk (toWaiting new)) (hkey : new.key = old.key) (hservice : new.service = old.service)
    (hdecision : new.decision = old.decision)
    (hstands : stands = true → new.approach = old.approach ∧ 1 ≤ new.grade ∧ new.window.isSome = true) :
    Agreed (rewriteEntry i old new stands u) := by
  have hold : EntryOk old := (h.slots i trivial).1 old he
  have ofOld : ∀ f ∈ entryIn u i, f = old := fun f hf => by rw [he] at hf; cases hf; rfl
  have waits : ∀ f ∈ some (toWaiting new), EntryOk f ∧ evaluable f = true := by
    rintro _ ⟨⟩
    exact ⟨hok, evaluable_toWaiting new⟩
  have idle (hs : evaluable old = true) {x : Entry} (hx : EntryOk x ∧ evaluable x = true) :
      Agreed (requestEvaluation i new.key (Machine.setSlot i (some x) u)) :=
    (h.replace (fun f hf => ofOld f hf ▸ hs) (by rintro _ ⟨⟩; exact hx)).sendTable _
  have stays (ha : new.approach = old.approach) (hb : 1 ≤ new.grade ∧ new.window.isSome = true) :
      Agreed (Machine.setSlot i (some new) u) :=
    (h.mono fun _ _ => trivial).setSlot
      ((h.slot_some he).rewritten (entryOk_rewritten hold hok hservice hdecision fun _ => hb) hkey hservice ha)
  have member (hs : old.service = .granted ∨ old.service = .riding) : Agreed
      (if new.approach ≠ old.approach then
        requestEvaluation i new.key (Machine.setSlot i (some (toWaiting new))
          (Machine.memberLeaves { slot := i, key := old.key } (Machine.setSlot i (some (toWaiting old)) u)))
      else if memberFits u i new then Machine.setSlot i (some new) u
      else requestEvaluation i new.key
        (Machine.memberLeaves { slot := i, key := old.key } (Machine.setSlot i (some (toWaiting new)) u))) := by
    obtain ⟨g, hg, -⟩ := h.member he hs
    split
    · obtain ⟨hothers, hown⟩ := h.memberLeaves he hs (x := some (toWaiting old)) (by rintro _ ⟨⟩; simp)
      exact (hothers.setSlot (hown.slotOk waits)).sendTable _
    next happroach =>
      have happroach : new.approach = old.approach := not_not.mp happroach
      split
      next hfits =>
        simp only [memberFits, hg] at hfits
        obtain ⟨hgrade, hwindow, -⟩ := fits_busy hfits
        exact stays happroach ⟨hgrade, hwindow⟩
      next =>
        obtain ⟨hothers, hown⟩ := h.memberLeaves he hs (x := some (toWaiting new)) (by rintro _ ⟨⟩; simp)
        have hin : entryIn (Machine.setSlot i (some (toWaiting new)) u) i = some (toWaiting new) := by simp
        have hkept := entryIn_memberLeaves (Machine.setSlot i (some (toWaiting new)) u) { slot := i, key := old.key }
          (fun f hf => by rw [hin] at hf; cases hf; exact hkey) (fun f hf => by rw [hin] at hf; cases hf; simp)
        have hagreed := hothers.setSlot (hown.slotOk waits)
        rw [setSlot_of_entryIn (hkept.trans hin)] at hagreed
        exact hagreed.sendTable _
  unfold Machine.rewriteEntry
  cases hs : old.service with
  | waiting =>
    have hw : new.service = .waiting := hservice.trans hs
    exact idle (by simp [evaluable, hs])
      ⟨entryOk_rewritten hold hok hservice hdecision fun hne => absurd hw hne, by simp [evaluable, hw]⟩
  | armed =>
    have ha : new.service = .armed := hservice.trans hs
    refine idle (by simp [evaluable, hs]) ?_
    split
    · exact ⟨hok, evaluable_toWaiting new⟩
    next hkeeps =>
      obtain ⟨hgrade, hwindow⟩ := not_or.mp hkeeps
      exact ⟨entryOk_rewritten hold hok hservice hdecision fun _ =>
        ⟨by omega, Option.isSome_iff_ne_none.mpr hwindow⟩, by simp [evaluable, ha]⟩
  | offered =>
    dsimp only
    split
    next hst =>
      obtain ⟨ha, hb⟩ := hstands hst
      exact stays ha hb
    next =>
      obtain ⟨hothers, hown⟩ := abandonOffer_agreed h he hs
      exact (hothers.setSlot (hown.slotOk waits)).sendTable _
  | granted => exact member (.inl hs)
  | riding => exact member (.inr hs)

end Sys2Proof.Machine
end

section
/-! The operations of the Grant Arbiter and of the Approach Table keep entries and grant slot in agreement, and so does every
step (R3, R4, R69, R70, R79, R89). -/

open Sys2Proof Sys2Proof.Machine

namespace Sys2Proof.Machine

/-! ### Offers and grants -/

/-- Every entry is as its record says and WAITING or ARMED. -/
def AllEvaluable (u : Bn24) : Prop := ∀ i : SlotIx, ∀ e ∈ entryIn u i, EntryOk e ∧ evaluable e = true

/-- An entry in WAITING without a decision (R3). -/
theorem entryOk_waiting {e f : Entry} (h : EntryOk e) (hconf : f.confirmation = e.confirmation) (hwindow : f.window = e.window)
    (hquality : f.quality = e.quality) (hgrade : f.grade = e.grade) (hchain : f.chain = e.chain) (hs : f.service = .waiting)
    (hd : f.decision = none) : EntryOk f := by
  obtain ⟨-, hc, hq, hg, hch, -⟩ := h
  refine ⟨by simp [hs, hd], ?_, ?_, hgrade ▸ hg, hchain ▸ hch, fun hne => absurd hs hne⟩
  · rw [hconf, hwindow]; exact hc
  · rw [hconf, hwindow, hquality]; exact hq

theorem EntryOk.toWaiting {e : Entry} (h : EntryOk e) : EntryOk (toWaiting e) := entryOk_waiting h rfl rfl rfl rfl rfl rfl rfl

theorem EntryOk.markDeclined {e : Entry} (h : EntryOk e) (u : Bn24) : EntryOk (markDeclined u e) :=
  entryOk_waiting h rfl rfl rfl rfl rfl rfl rfl

/-- With the slot OFFERED no join request waits. -/
theorem AgreedOn.joins_of_offered {u : Bn24} (h : Agreed u) {o : Offer} (ho : u.arbiter.slot = .offered o) :
    u.arbiter.joins = [] := by
  by_contra hne
  obtain ⟨g, hg⟩ := h.joins hne
  rw [ho] at hg
  cases hg

/-- While an offer stands only its entry is out of WAITING and ARMED (R79). -/
theorem AgreedOn.only_offered {u : Bn24} (h : Agreed u) {o : Offer} (ho : u.arbiter.slot = .offered o) {i : SlotIx} {e : Entry}
    (he : entryIn u i = some e) (hbusy : evaluable e = false) : o.entry = some { slot := i, key := e.key } := by
  have hnamed := h.named he hbusy
  rw [ho] at hnamed
  exact (namedAs_offered.mp hnamed).1

/-- While a grant is ACTIVE only its members are (R89). -/
theorem AgreedOn.only_members {u : Bn24} (h : Agreed u) {g : Grant} (hg : u.arbiter.slot = .active g) {i : SlotIx} {e : Entry}
    (he : entryIn u i = some e) (hbusy : evaluable e = false) : { slot := i, key := e.key } ∈ g.members := by
  have hnamed := h.named he hbusy
  rw [hg] at hnamed
  exact (namedAs_active.mp hnamed).1

/-- The entry of an offer back in WAITING, none is out of WAITING and ARMED. -/
theorem AgreedOn.offered_returned {u : Bn24} (h : Agreed u) {o : Offer} (ho : u.arbiter.slot = .offered o) {r : EntryRef}
    (hr : o.entry = some r) (f : Entry → Entry) (hf : ∀ e, EntryOk e → EntryOk (f e) ∧ evaluable (f e) = true) :
    AllEvaluable (modifyEntry r f u) := by
  intro i e he
  rw [entryIn_modifyEntry] at he
  obtain ⟨d, hd, rfl⟩ := Option.map_eq_some_iff.mp he
  have hok : EntryOk d := (h.slots i trivial).1 d hd
  split
  · exact hf d hok
  next hne =>
    refine ⟨hok, ?_⟩
    by_contra hbusy
    have := h.only_offered ho hd (by simpa using hbusy)
    rw [hr] at this
    exact hne (Option.some.inj this)

/-- With no entry named, the offer's end leaves none out of WAITING and ARMED. -/
theorem AgreedOn.offered_none {u : Bn24} (h : Agreed u) {o : Offer} (ho : u.arbiter.slot = .offered o)
    (hnone : ∀ r ∈ o.entry, entryAt u r = none) : AllEvaluable u := by
  intro i e he
  refine ⟨(h.slots i trivial).1 e he, ?_⟩
  by_contra hbusy
  have hentry := h.only_offered ho he (by simpa using hbusy)
  have := hnone _ hentry
  rw [(entryAt_eq_some u _ e).mpr ⟨he, rfl⟩] at this
  cases this

/-- The slot is freed once no entry is out of WAITING and ARMED. -/
theorem agreed_setGrant_free {u : Bn24} (h : AllEvaluable u) (hjoins : u.arbiter.joins = []) : Agreed (setGrant .free u) :=
  agreedOn_free (fun i _ => h i) rfl hjoins

theorem acceptAbandoned_agreed {u : Bn24} (h : AllEvaluable u) (hjoins : u.arbiter.joins = []) (o : Offer) :
    Agreed (acceptAbandoned o u) := by
  refine (agreed_setGrant_free (fun i e he => ?_) ?_).selection
  · rw [entryIn_handLink] at he
    exact h i e he
  · rw [handLink_frame]
    exact hjoins

/-- The accepted entry is the holder, GRANTED (R82). -/
theorem entryOk_accepted {e : Entry} (h : EntryOk e) (hs : e.service = .offered) :
    EntryOk { e with service := .granted, served := true } := by
  obtain ⟨hdec, hconf, hqual, hgrade, hchain, hbusy⟩ := h
  exact ⟨by simpa [hs] using hdec, hconf, hqual, hgrade, hchain, fun _ => hbusy (by simp [hs])⟩

theorem AgreedOn.acceptOffer {u : Bn24} (h : Agreed u) {o : Offer} (ho : u.arbiter.slot = .offered o) :
    Agreed (acceptOffer o u) := by
  have hjoins := h.joins_of_offered ho
  unfold Machine.acceptOffer
  split
  next hnone => exact acceptAbandoned_agreed (h.offered_none ho (by rw [hnone]; exact nofun)) hjoins o
  next r hr =>
    split
    next hgone => exact acceptAbandoned_agreed (h.offered_none ho (by rw [hr]; rintro _ ⟨⟩; exact hgone)) hjoins o
    next e he =>
      obtain ⟨hin, hk⟩ := (entryAt_eq_some u r e).mp he
      obtain ⟨f, hf, -, hservice, happroach⟩ := (h.slots r.slot trivial).named (k := r.key) (p := (.offered, o.approach))
        (by rw [ho]; exact namedAs_offered.mpr ⟨hr, rfl⟩)
      obtain rfl : e = f := Option.some.inj (hin.symm.trans hf)
      have hlone {q : EntryRef} {p : Service × ApproachIx} : namedAs (.active (acceptedGrant u o r e)) q = some p ↔
          q = r ∧ (.granted, o.approach) = p := by
        rw [namedAs_active]
        simp only [acceptedGrant, List.mem_singleton, List.head?_cons, Option.some.injEq]
        constructor
        · rintro ⟨rfl, hp⟩; exact ⟨rfl, by simpa using hp⟩
        · rintro ⟨rfl, hp⟩; exact ⟨rfl, by simpa using hp⟩
      have hothers : AgreedOn (· ≠ r.slot) (setGrant (.active (acceptedGrant u o r e)) u) := by
        refine ⟨⟨Nat.le_refl 1, by simp [acceptedGrant, Config.memberCapacity], List.nodup_singleton r⟩, fun i hi => ?_,
          fun _ => ⟨_, rfl⟩⟩
        have hunnamed : Unnamed (.active (acceptedGrant u o r e)) i := fun k => by
          by_contra hne
          obtain ⟨p, hp⟩ := Option.ne_none_iff_exists'.mp hne
          exact hi (congrArg EntryRef.slot (hlone.mp hp).1)
        refine hunnamed.slotOk fun d hd => ⟨(h.slots i trivial).1 d hd, ?_⟩
        by_contra hbusy
        have hentry := h.only_offered ho hd (by simpa using hbusy)
        rw [hr] at hentry
        exact hi (congrArg EntryRef.slot (Option.some.inj hentry)).symm
      refine AgreedOn.congr (u := Machine.setSlot r.slot _ _) (hothers.setSlot ⟨?_, fun k => ?_⟩) rfl rfl rfl
      · rintro _ ⟨⟩
        exact entryOk_accepted ((h.slots r.slot trivial).1 e hin) hservice
      · rw [setGrant_arbiter_slot, standsAs_of_busy rfl]
        by_cases hkey : e.key = k
        · rw [if_pos hkey]
          refine hlone.mpr ⟨?_, ?_⟩
          · rw [← hkey, hk]
          · exact Prod.ext rfl happroach.symm
        · rw [if_neg hkey]
          by_contra hne
          obtain ⟨p, hp⟩ := Option.ne_none_iff_exists'.mp hne
          have : k = r.key := congrArg EntryRef.key (hlone.mp hp).1
          exact hkey (hk.trans this.symm)

theorem agreed_lateAccept {u : Bn24} (h : Agreed u) (id : Byte) : Agreed (lateAccept id u) := by
  unfold lateAccept
  rw [handLink_frame]
  exact h.congr rfl rfl rfl

theorem AgreedOn.takeAccept {u : Bn24} (h : Agreed u) (id : Byte) : Agreed (takeAccept id u) := by
  unfold Machine.takeAccept
  split
  · exact agreed_lateAccept h id
  next o ho =>
    split
    · exact h.acceptOffer ho
    · exact agreed_lateAccept h id
  · split
    · exact h
    · exact agreed_lateAccept h id

theorem AgreedOn.offerEnded {u : Bn24} (h : Agreed u) {o : Offer} (ho : u.arbiter.slot = .offered o) : Agreed (offerEnded o u) := by
  have hjoins := h.joins_of_offered ho
  unfold Machine.offerEnded
  split
  next hnone => exact (agreed_setGrant_free (h.offered_none ho (by rw [hnone]; exact nofun)) hjoins).selection
  next r hr =>
    refine (agreed_setGrant_free (h.offered_returned ho hr _ fun e he => ⟨he.markDeclined u, rfl⟩) ?_).selection
    rw [modifyEntry_frame]
    exact hjoins

theorem AgreedOn.takeDecline {u : Bn24} (h : Agreed u) (id : Byte) : Agreed (takeDecline id u) := by
  unfold Machine.takeDecline
  split
  · exact h
  next o ho =>
    split
    · split
      · exact AgreedOn.offerEnded (u := count .callsDeclined u) (h.congr rfl rfl rfl) ho
      · exact h.offerEnded ho
    · exact h
  · exact h

/-- Every member returned, none is out of WAITING and ARMED (R94). -/
theorem AgreedOn.members_returned {u : Bn24} (h : Agreed u) {g : Grant} (hg : u.arbiter.slot = .active g) :
    AllEvaluable (returnMembers g.members u) := by
  intro i e he
  rw [entryIn_returnMembers] at he
  obtain ⟨d, hd, rfl⟩ := Option.map_eq_some_iff.mp he
  have hok : EntryOk d := (h.slots i trivial).1 d hd
  split
  · exact ⟨hok.toWaiting, rfl⟩
  next hnot =>
    refine ⟨hok, ?_⟩
    by_contra hbusy
    exact hnot (h.only_members hg hd (by simpa using hbusy))

/-- A grant that is ended from without: its members are WAITING (R94, R100). -/
theorem AgreedOn.membersDismissed {u : Bn24} (h : Agreed u) {g : Grant} (hg : u.arbiter.slot = .active g) {v : Bn24}
    (hv : v.table.slots = (returnMembers g.members u).table.slots) : Agreed (grantEnded g v) := by
  refine (grantEnded_agreed g (fun i _ e he => ?_) fun _ hi => absurd trivial hi).1
  rw [entryIn_congr hv] at he
  exact h.members_returned hg i e he

theorem AgreedOn.overrun {u : Bn24} (h : Agreed u) {g : Grant} (hg : u.arbiter.slot = .active g) : Agreed (overrun g u) := by
  have hlink : Agreed (handLink (.clear g.id) u) := by
    rw [handLink_frame]
    exact h.congr rfl rfl rfl
  refine hlink.membersDismissed (by rw [handLink_frame]; exact hg) rfl

theorem AgreedOn.silenceGrant {u : Bn24} (h : Agreed u) : Agreed (silenceGrant u) := by
  unfold Machine.silenceGrant
  split
  · exact h
  next o ho =>
    have hjoins := h.joins_of_offered ho
    split
    next hnone => exact agreed_setGrant_free (h.offered_none ho (by rw [hnone]; exact nofun)) hjoins
    next r hr =>
      refine agreed_setGrant_free (h.offered_returned ho hr _ fun e he => ⟨he.toWaiting, rfl⟩) ?_
      rw [returnToWaiting, modifyEntry_frame]
      exact hjoins
  next g hg =>
    have hlink : Agreed (handLink (.clear g.id) u) := by
      rw [handLink_frame]
      exact h.congr rfl rfl rfl
    exact hlink.membersDismissed (by rw [handLink_frame]; exact hg) rfl

/-- The grant names a newcomer as a rider and the others as before (R90). -/
theorem namedAs_joined {g : Grant} {r : EntryRef} (hpos : 1 ≤ g.members.length) (hr : r ∉ g.members) (q : EntryRef) :
    namedAs (.active { g with members := g.members ++ [r] }) q =
      if q = r then some (.riding, g.approach) else namedAs (.active g) q := by
  obtain ⟨m, rest, hm⟩ := List.exists_cons_of_length_pos hpos
  have hhead : (g.members ++ [r]).head? = g.members.head? := by rw [hm]; rfl
  simp only [namedAs, hhead, List.mem_append, List.mem_singleton]
  by_cases hq : q = r
  · have hne : g.members.head? ≠ some r := fun h => hr (List.mem_of_mem_head? h)
    simp [hq, hne]
  · simp [hq]

theorem AgreedOn.admitRider {u : Bn24} (h : Agreed u) (r : EntryRef) : Agreed (admitRider r u) := by
  unfold Machine.admitRider
  split
  next g e hg he =>
    split
    next htest =>
      obtain ⟨hin, hk⟩ := (entryAt_eq_some u r e).mp he
      simp only [joinable, hg, Bool.and_eq_true, decide_eq_true_eq] at htest
      obtain ⟨hevaluable, hroom, hfits⟩ := htest
      obtain ⟨hgrade, hwindow, happroach⟩ := fits_busy hfits
      have hmembers := h.members
      rw [hg] at hmembers
      obtain ⟨hpos, hmax, hnodup⟩ := hmembers
      have hunnamed : Unnamed u.arbiter.slot r.slot :=
        (h.slots r.slot trivial).unnamed (by rw [hin]; rintro _ ⟨⟩; exact hevaluable)
      rw [hg] at hunnamed
      have hnot (k : Key) : { slot := r.slot, key := k } ∉ g.members := fun hmem => by
        have := hunnamed k
        rw [namedAs, if_pos hmem] at this
        cases this
      have hothers : AgreedOn (· ≠ r.slot) (setGrant (.active { g with members := g.members ++ [r] }) u) := by
        refine ⟨⟨by simp, by simpa using hroom, ?_⟩, fun i hi => ?_, fun _ => ⟨_, rfl⟩⟩
        · exact hnodup.append (List.nodup_singleton r) (by simpa using hnot r.key)
        · have hslot := h.slots i trivial
          rw [hg] at hslot
          refine ⟨hslot.1, fun k => ?_⟩
          rw [setGrant_arbiter_slot, namedAs_joined hpos (hnot r.key), if_neg]
          · exact hslot.2 k
          · exact fun heq => hi (congrArg EntryRef.slot heq)
      refine hothers.setSlot ⟨?_, fun k => ?_⟩
      · rintro _ ⟨⟩
        obtain ⟨-, hconf, hqual, hg15, hc15, -⟩ := (h.slots r.slot trivial).1 e hin
        exact ⟨by simp [ridingEntry], hconf, hqual, hg15, hc15, fun _ => ⟨hgrade, hwindow⟩⟩
      · rw [setGrant_arbiter_slot, namedAs_joined hpos (hnot r.key), standsAs_of_busy rfl]
        by_cases hkey : e.key = k
        · have hr : ({ slot := r.slot, key := k } : EntryRef) = r := by rw [← hkey, hk]
          rw [if_pos hr, ridingEntry_key, if_pos hkey, ridingEntry_service, ridingEntry_approach, happroach]
        · have hr : ({ slot := r.slot, key := k } : EntryRef) ≠ r := fun hr => hkey (hk.trans (congrArg EntryRef.key hr).symm)
          rw [if_neg hr, ridingEntry_key, if_neg hkey]
          exact hunnamed k
    next => exact h
  next => exact h

/-! ### The Approach Table -/

/-- An evaluation writes an entry as its record says, WAITING or ARMED (R67). -/
theorem entryOk_writtenEntry {u : Bn24} {e : Entry} (h : EntryOk e) :
    EntryOk (writtenEntry u e) ∧ evaluable (writtenEntry u e) = true := by
  have cleared : ∀ f, (f = e ∨ f = { e with declined := none }) → EntryOk (match verdictOf u f with
      | .call d => { f with service := .armed, decision := some d }
      | .hold => toWaiting f
      | .rides => toWaiting f
      | .wait => toWaiting f) ∧ evaluable (match verdictOf u f with
      | .call d => { f with service := .armed, decision := some d }
      | .hold => toWaiting f
      | .rides => toWaiting f
      | .wait => toWaiting f) = true := by
    intro f hf
    have hok : EntryOk f := by rcases hf with rfl | rfl <;> exact h
    split
    next d hcall =>
      obtain ⟨-, hconf, hqual, hgrade, hchain, -⟩ := hok
      exact ⟨⟨by simp, hconf, hqual, hgrade, hchain, fun _ => call_busy hcall⟩, rfl⟩
    all_goals exact ⟨hok.toWaiting, rfl⟩
  unfold writtenEntry
  split
  · exact cleared _ (.inr rfl)
  · exact cleared _ (.inl rfl)

theorem AgreedOn.evaluation {u : Bn24} (h : Agreed u) (r : EntryRef) : Agreed (applyEvaluation r u) := by
  have propose {w : Bn24} (hw : Agreed w) (d : Verdict) (new : Entry) : Agreed (proposeJoin r d new w) := by
    unfold proposeJoin
    split
    next htest =>
      refine ⟨hw.members, hw.slots, fun _ => ?_⟩
      obtain ⟨-, hjoin⟩ := htest
      unfold joinable at hjoin
      split at hjoin
      next g hg => exact ⟨g, hg⟩
      all_goals cases hjoin
    next => exact hw
  unfold applyEvaluation
  split
  · exact h
  next e he =>
    obtain ⟨hin, -⟩ := (entryAt_eq_some u r e).mp he
    split
    next hevaluable =>
      refine propose ?_ _ _
      have hok : EntryOk e := (h.slots r.slot trivial).1 e hin
      have hwritten : Agreed (Machine.setSlot r.slot (some (writtenEntry u e)) u) := by
        refine h.replace (by rw [hin]; rintro _ ⟨⟩; exact hevaluable) ?_
        rintro _ ⟨⟩
        exact entryOk_writtenEntry hok
      unfold writeEvaluation
      dsimp only
      split
      · exact hwritten.selection
      · exact hwritten
    next => exact h

theorem AgreedOn.disarmAll {u : Bn24} (h : Agreed u) : Agreed (disarmAll u) := by
  refine ⟨h.members, fun i _ => ?_, h.joins⟩
  have hslot := h.slots i trivial
  rw [entryIn_disarmAll]
  cases he : entryIn u i with
  | none => rw [he] at hslot; exact hslot
  | some e =>
    simp only [disarm]
    split
    next harmed =>
      rw [he] at hslot
      refine (hslot.unnamed ?_).slotOk ?_
      · rintro _ ⟨⟩
        simp [evaluable, harmed]
      · rintro _ ⟨⟩
        exact ⟨(hslot.1 e rfl).toWaiting, rfl⟩
    next => rw [he] at hslot; exact hslot

theorem agreed_allocate {u : Bn24} (h : Agreed u) {new : Entry} (hnew : EntryOk new) (hs : new.service = .waiting) {v : Bn24}
    (hv : v = allocateForecast new u ∨ v = allocateConfirmed new u) : Agreed v := by
  obtain ⟨harbiter, hslots | ⟨j, hwaiting, hslots⟩⟩ := allocate_cases new u hv
  · exact h.congr hslots (by rw [harbiter]) (by rw [harbiter])
  · refine AgreedOn.congr (u := setSlot j (some new) u) (h.replace (fun e he => ?_) ?_) hslots (by rw [harbiter]; rfl)
      (by rw [harbiter]; rfl)
    · simp [evaluable, hwaiting e he]
    · rintro _ ⟨⟩
      exact ⟨hnew, by simp [evaluable, hs]⟩

theorem agreed_handleCheckIn {u : Bn24} (h : Agreed u) (p : PointIx) (k : Key) (cls : Fin 4) (late : Int) (speed : Nat)
    (skip : Bool) : Agreed (handleCheckIn p k cls late speed skip u) := by
  unfold handleCheckIn
  split
  · exact h.congr rfl rfl rfl
  · split
    · exact h
    next point _ =>
      split
      · refine agreed_allocate h ?_ rfl (.inr rfl)
        exact ⟨by simp [newConfirmed], fun _ => rfl, by simp [newConfirmed], gradeOf_le .., Nat.zero_le _, fun hne => absurd rfl hne⟩
      · split
        · exact h
        next old hold =>
          have hok : EntryOk old := (h.slots _ trivial).1 old hold
          obtain ⟨-, -, -, -, hchain, -⟩ := hok
          refine h.rewriteEntry hold (entryOk_toWaiting ?_ ?_ ?_ hchain) rfl rfl rfl nofun
          · exact fun _ => rfl
          · simp [checkedIn]
          · exact gradeOf_le ..

theorem agreed_departed {u : Bn24} (h : Agreed u) (k : Key) : Agreed (addDeparture k u) := h.congr rfl rfl rfl

theorem agreed_requestPassage {u : Bn24} (h : Agreed u) (r : PassageRequest) : Agreed (requestPassage r u) := by
  obtain ⟨sent, heq, -⟩ := requestPassage_cases r u
  rw [heq]
  exact h.congr rfl rfl rfl

theorem agreed_handleCheckOut {u : Bn24} (h : Agreed u) (p : PointIx) (k : Key) (cls : Fin 4) (late : Int) :
    Agreed (handleCheckOut p k cls late u) := by
  unfold handleCheckOut
  split
  · exact h.congr rfl rfl rfl
  · split
    · exact h
    · split
      · exact agreed_requestPassage (agreed_departed (u := count .checkoutUnmatched u) (h.congr rfl rfl rfl) k) _
      · split
        · exact h
        next he => exact agreed_requestPassage (agreed_departed (h.removeEntry he) k) _

theorem agreed_handleCancel {u : Bn24} (h : Agreed u) (k : Key) : Agreed (handleCancel k u) := by
  unfold handleCancel
  refine AgreedOn.congr (u := addDeparture k _) (agreed_departed ?_ k) rfl rfl rfl
  split
  · exact h
  · split
    · exact h
    next he => exact h.removeEntry he

theorem agreed_handleInvalidation {u : Bn24} (h : Agreed u) (k : Key) : Agreed (handleInvalidation k u) := by
  unfold handleInvalidation
  split
  · exact h
  · split
    · exact h
    next he =>
      split
      · exact h
      · exact AgreedOn.removeEntry (u := count .forecastInvalidated u) (h.congr rfl rfl rfl) he

/-- The window and the quality of a forecast come together (R46). -/
theorem agreed_applyForecast {u : Bn24} (h : Agreed u) {r : ForecastRequest} {w : Option Window} {q : Option Quality} {g : Nat}
    (hq : q.isSome = true ↔ w.isSome = true) (hchain : r.chain ≤ 15) (hg : g ≤ 15) : Agreed (applyForecast r w q g u) := by
  unfold applyForecast
  split
  · refine agreed_allocate h ?_ rfl (.inl rfl)
    exact ⟨by simp [newForecast], nofun, by simpa [newForecast] using hq, hg, hchain, fun hne => absurd rfl hne⟩
  next i _ =>
    split
    · exact h
    next old hold =>
      split
      · exact h
      next hconf =>
        have hforecast : (reforecast u old r w q g).confirmation = .forecast := hconf
        unfold updateForecast
        refine h.rewriteEntry hold (entryOk_toWaiting (fun hc => ?_) ?_ hg hchain) rfl rfl rfl fun hstands => ?_
        · rw [hforecast] at hc
          cases hc
        · rw [hforecast]
          simpa [reforecast] using hq
        · simp only [Bool.and_eq_true, decide_eq_true_eq] at hstands
          obtain ⟨happroach, hstands⟩ := hstands
          refine ⟨happroach, ?_⟩
          unfold callStands at hstands
          split at hstands
          · split at hstands
            next hcall => exact call_busy hcall
            all_goals cases hstands
          all_goals cases hstands

theorem agreed_handleForecast {u : Bn24} (h : Agreed u) {r : ForecastRequest} (hr : RequestOk (.forecast r)) :
    Agreed (handleForecast r u) := by
  obtain ⟨hchain, hresult⟩ := hr
  unfold handleForecast
  split
  · exact h.congr rfl rfl rfl
  · split
    · exact h
    · cases hres : r.result with
      | stale => exact h.congr rfl rfl rfl
      | untimed g => exact agreed_applyForecast h (by simp) hchain (by simpa [hres] using hresult)
      | timed w q g => exact agreed_applyForecast h (by simp) hchain (by simpa [hres] using hresult)

end Sys2Proof.Machine
end

section
/-! Every step keeps entries, requests and grant slot in agreement: the commands that write entries by their operations, the
others by their elementary writes. -/

open Sys2Proof Sys2Proof.Machine

namespace Sys2Proof.Machine

/-! ### Messages from the controller -/

theorem agreed_receiveController {u : Bn24} (h : Agreed u) (payload : List Byte) (check : Byte) :
    Agreed (receiveController payload check u) := by
  have heard {w : Bn24} (hw : Agreed w) : Agreed (heardController w) := by
    unfold heardController
    dsimp only
    split
    · exact AgreedOn.sendTable (u := { w with
        controller.silent := false, controller.silenceStart := some w.localTime }) (hw.congr rfl rfl rfl) _
    · exact hw.congr rfl rfl rfl
  unfold receiveController
  dsimp only
  split
  · exact h.congr rfl rfl rfl
  next m _ =>
    have hm : Agreed (heardController (setLinkFraming .hunting u)) := heard (h.congr rfl rfl rfl)
    cases m with
    | phaseStatus a st tc tn inhibit => exact AgreedOn.sendTable (u := setPhase a _ _) (hm.congr rfl rfl rfl) _
    | accept id => exact hm.takeAccept id
    | decline id => exact hm.takeDecline id

theorem agreed_linkByte {u : Bn24} (h : Agreed u) (b : Byte) : Agreed (linkByte b u) := by
  have gap : Agreed (afterLinkGap u) := by
    unfold afterLinkGap
    split
    · exact h.congr rfl rfl rfl
    · exact h
  unfold linkByte frameLinkByte
  split
  · exact gap.congr rfl rfl rfl
  · exact gap.congr rfl rfl rfl
  · exact agreed_receiveController gap _ _

theorem agreed_linkBytes {u : Bn24} (h : Agreed u) (bytes : List Byte) : Agreed (linkBytes bytes u) := by
  unfold linkBytes
  induction bytes generalizing u with
  | nil => exact h
  | cons b rest ih => exact ih (agreed_linkByte h b)

/-! ### The commands that write entries -/

/-- An accepted RELOAD empties table, grant slot and join requests (R192). -/
theorem agreed_doReload (n : Nat) (u : Bn24) : Agreed (doReload n u) := by
  have stopped (w : Bn24) : (clockOff w).table = w.table ∧ (clockOff w).arbiter = w.arbiter := by
    unfold clockOff
    split <;> exact ⟨rfl, rfl⟩
  obtain ⟨htable, harbiter⟩ := stopped (portOff (emptyBlocks (clearForReload u)))
  obtain ⟨b, l, m, heq, -⟩ := loadGoesOn_beginLoad n (clockOff (portOff (emptyBlocks (clearForReload u))))
  have empty : Agreed (portOff (emptyBlocks (clearForReload u))) := by
    refine agreedOn_free (fun i _ e he => ?_) rfl rfl
    simp [entryIn, emptyBlocks, portOff] at he
  unfold doReload
  rw [heq]
  exact empty.congr (by rw [← htable]) (by rw [← harbiter]) (by rw [← harbiter])

/-- The requests that wait for the table bring grades and chains in their ranges. -/
def RequestsOk (u : Bn24) : Prop := ∀ r ∈ u.table.requests, RequestOk r

/-- The commands that write entries, the grant slot or the join requests keep them in agreement. -/
theorem effectOf_agreed {c : Instr} (hc : writesEntries c = true) {u : Bn24} (h : Agreed u) (hrequests : RequestsOk u) :
    Agreed (effectOf c u) := by
  have popped : Agreed (popRequest u) := h.congr rfl rfl rfl
  have taken : Agreed (purgeRecent (takeInbox u)) := h.congr rfl rfl rfl
  have act {v : Bn24} (heq : effectOf c u = if u.resetHeld then u else v) (hv : Agreed v) : Agreed (effectOf c u) := by
    rw [heq]
    split
    · exact h
    · exact hv
  cases c <;> simp only [writesEntries, Bool.false_eq_true] at hc
  case reload n =>
    rcases effectOf_reload n u with heq | ⟨-, heq⟩ | ⟨-, heq⟩
    · rw [heq]; exact h
    · rw [heq]; exact h.congr rfl rfl rfl
    · rw [heq]; exact agreed_doReload n _
  case checkIn =>
    refine act rfl ?_
    dsimp only
    split
    · exact agreed_handleCheckIn taken ..
    · exact h
  case checkOut =>
    refine act rfl ?_
    dsimp only
    split
    · exact agreed_handleCheckOut taken ..
    · exact h
  case cancel =>
    refine act rfl ?_
    dsimp only
    split
    · exact agreed_handleCancel taken _
    · exact h
  case forecastRequest =>
    refine act rfl ?_
    dsimp only
    split
    next r rest hfront =>
      refine agreed_handleForecast (u := purgeRecent (popRequest u)) (h.congr rfl rfl rfl) (hrequests _ ?_)
      rw [hfront]
      exact List.mem_cons_self
    next => exact h
  case invalidationRequest =>
    refine act rfl ?_
    dsimp only
    split
    · exact agreed_handleInvalidation popped _
    · exact h
  case evaluation =>
    refine act rfl ?_
    dsimp only
    split
    · exact popped.evaluation _
    · exact h
  case silenceRequest =>
    refine act rfl ?_
    dsimp only
    split
    · exact popped.disarmAll
    · exact h
  case entryExpiry i =>
    refine act rfl ?_
    dsimp only
    split
    next e he =>
      split
      · exact AgreedOn.removeEntry (u := count (expiryCounter e) u) (h.congr rfl rfl rfl) he
      · exact h
    next => exact h
  case untimedExpiry i =>
    refine act rfl ?_
    dsimp only
    split
    next e he =>
      split
      · exact AgreedOn.removeEntry (u := count .forecastUnconfirmed u) (h.congr rfl rfl rfl) he
      · exact h
    next => exact h
  case joinRequest =>
    refine act rfl ?_
    dsimp only
    split
    · exact h
    next r rest hjoins =>
      refine AgreedOn.admitRider (u := { u with arbiter := { u.arbiter with joins := rest } })
        ⟨h.members, h.slots, fun _ => h.joins ?_⟩ r
      rw [hjoins]
      exact List.cons_ne_nil _ _
  case replyWaitExpiry =>
    refine act rfl ?_
    dsimp only
    split
    next o ho =>
      split
      · exact AgreedOn.offerEnded (u := count .replyTimeouts u) (h.congr rfl rfl rfl) ho
      · exact h
    all_goals exact h
  case grantDeadline =>
    refine act rfl ?_
    dsimp only
    split
    next g hg =>
      split
      · exact h.overrun hg
      · exact h
    all_goals exact h
  case controllerMessageReceived payload check =>
    refine act rfl ?_
    dsimp only
    split
    · split
      · exact agreed_receiveController h _ _
      · exact agreed_linkBytes h _
    · exact h
  case linkStartByte =>
    refine act rfl ?_
    dsimp only
    split
    · exact agreed_linkByte h _
    · exact h
  case controllerSilence =>
    refine act rfl ?_
    dsimp only
    split
    · exact (AgreedOn.silenceGrant (u := flag .controllerSilent (count .controllerSilences
        { u with controller := { u.controller with silent := true, silenceStart := none } })) (h.congr rfl rfl rfl)).sendTable _
    · exact h

/-! ### The other commands -/

theorem write_entries {c : Instr} (hc : writesEntries c = false) {K : Key → Prop} {u v : Bn24} (h : Write c K u v) :
    v.table.slots = u.table.slots ∧ v.arbiter.slot = u.arbiter.slot ∧ v.arbiter.joins = u.arbiter.joins := by
  cases h
  case link => rw [handLink_frame]; exact ⟨rfl, rfl, rfl⟩
  case serve hw _ => rw [hc] at hw; cases hw
  case rewrite hw _ _ _ => rw [hc] at hw; cases hw
  case place hw _ _ _ _ => rw [hc] at hw; cases hw
  case remove hw _ => rw [hc] at hw; cases hw
  case retire hw _ _ => rw [hc] at hw; cases hw
  case emptyTable hw _ => rw [hc] at hw; cases hw
  case grant hw => rw [hc] at hw; cases hw
  case joins hw => rw [hc] at hw; cases hw
  all_goals exact ⟨rfl, rfl, rfl⟩

/-! ### Requests and frames -/

theorem write_requestsOk {c : Instr} (hc : ¬ SettlesFrames c) {K : Key → Prop} (u v : Bn24) (h : Write c K u v) (hu : RequestsOk u) :
    RequestsOk v := by
  cases h
  case link => rw [handLink_frame]; exact hu
  case requests rs hrs => exact fun r hr => (hrs r hr).elim (hu r) fun h => h.resolve_right hc
  all_goals exact hu

/-- The frames that wait for the handler bring chains in their range. -/
def PassagesOk (u : Bn24) : Prop := ∀ f ∈ u.handler.frames, FrameOk f

theorem write_passagesOk {c : Instr} (hc : ∀ header payload check, c ≠ .frameReceived header payload check) {K : Key → Prop}
    (u v : Bn24) (h : Write c K u v) (hu : PassagesOk u) : PassagesOk v := by
  cases h
  case link => rw [handLink_frame]; exact hu
  case handler k hk =>
    refine fun f hf => (hk f hf).elim (hu f) ?_
    rintro ⟨header, payload, check, rfl⟩
    exact absurd rfl (hc header payload check)
  all_goals exact hu

/-- The chain of a PASSAGE has 4 bits (R205). -/
theorem passageOf_chain (sender : Nat) (payload : List Byte) : (passageOf sender payload).chain ≤ 15 := by
  have := ((byteAt payload 3).extractLsb' 0 4).isLt
  simp only [passageOf]
  omega

/-- A delivered frame brings a chain in its range (R149). -/
theorem receiveFrame_passagesOk (header : Half) (payload : List Byte) (check : Half) {u : Bn24} (hu : PassagesOk u) :
    PassagesOk (receiveFrame header payload check u) := by
  have clash (w : Bn24) : (takeClash w).handler = w.handler := by
    unfold takeClash
    rw [flag_handler, countTimes_frame]
    rfl
  have deliver (start : Time) {w : Bn24} (hw : PassagesOk w) : PassagesOk (deliverFrame header payload start w) := by
    unfold deliverFrame
    dsimp only
    split
    · exact hw
    · split
      · refine fun f hf => (List.mem_append.mp hf).elim (hw f) fun hf => ?_
        rw [List.mem_singleton.mp hf]
        exact passageOf_chain _ _
      · refine fun f hf => (List.mem_append.mp hf).elim (hw f) fun hf => ?_
        rw [List.mem_singleton.mp hf]
        trivial
  unfold receiveFrame
  split
  · unfold dropMalformed
    dsimp only
    split <;> exact hu
  · dsimp only
    split
    · split
      · unfold PassagesOk
        rw [clash]
        exact hu
      · exact deliver _ hu
    · exact hu

/-- What a frame makes the handler ask of the table is in its range (R151). -/
theorem handleFrame_requestsOk {f : ReceivedFrame} (hf : FrameOk f) {u : Bn24} (hu : RequestsOk u) : RequestsOk (handleFrame f u) := by
  have send {w : Bn24} (hw : RequestsOk w) {r : TableRequest} (hr : RequestOk r) : RequestsOk (sendTable [r] w) := by
    unfold RequestsOk
    rw [sendTable_frame]
    dsimp only
    split
    · exact fun q hq => (List.mem_append.mp hq).elim (hw q) fun hq => List.mem_singleton.mp hq ▸ hr
    · exact hw
  cases f with
  | withdraw _ k => exact send hu trivial
  | passage p =>
    simp only [handleFrame, handlePassage, passageHere]
    split
    · split <;> exact hu
    · split
      · split
        · exact hu
        next l _ =>
          refine send hu ⟨hf, ?_⟩
          unfold passageForecast passageGrade
          split
          next r hr =>
            split at hr
            · cases hr
            · split at hr
              · cases hr
              · cases hr; exact gradeOf_le ..
          next r hr =>
            split at hr
            · cases hr; exact gradeOf_le ..
            · split at hr <;> cases hr
          next => trivial
      · exact send hu trivial

/-- What waits for the handler is settled with requests in their ranges (R158). -/
theorem settleHandler_requestsOk {u : Bn24} (hu : RequestsOk u) (hframes : PassagesOk u) : RequestsOk (settleHandler u) := by
  have requests (rs : List HandlerRequest) (w : Bn24) (hw : RequestsOk w) :
      RequestsOk (rs.foldl (fun v r => handleRequest r v) w) := by
    induction rs generalizing w with
    | nil => exact hw
    | cons r rest ih =>
      have hnot : ¬ SettlesFrames .loadFault := by simp [SettlesFrames, EndsLoad]
      exact ih _ (writes_keep (write_requestsOk hnot) (writes_handleRequest (K := fun _ => True) r w) hw)
  have frames (fs : List ReceivedFrame) (hfs : ∀ f ∈ fs, FrameOk f) (w : Bn24) (hw : RequestsOk w) :
      RequestsOk (fs.foldl (fun v f => handleFrame f v) w) := by
    induction fs generalizing w with
    | nil => exact hw
    | cons f rest ih =>
      exact ih (fun g hg => hfs g (List.mem_cons_of_mem _ hg)) _ (handleFrame_requestsOk (hfs f List.mem_cons_self) hw)
  exact frames _ hframes _ (requests _ _ hu)

theorem endRunning_requestsOk {u : Bn24} (hu : RequestsOk u) (hframes : PassagesOk u) : RequestsOk (endRunning u) := by
  have hnot : ¬ SettlesFrames .beaconTimer := by simp [SettlesFrames, EndsLoad]
  unfold endRunning
  refine writes_keep (write_requestsOk hnot) (writes_clockStart (K := fun _ => True) rfl _) ?_
  exact settleHandler_requestsOk hu hframes

/-- Every command keeps the requests in their ranges. -/
theorem exec_requestsOk {c : Instr} {s t : State} (h : exec c s = .next t) (hu : RequestsOk s.unit) (hframes : PassagesOk s.unit) :
    RequestsOk t.unit := by
  by_cases hc : SettlesFrames c
  · rcases hc with rfl | ⟨mark, n, rfl⟩ | ⟨type, body, rfl⟩
    · simp only [exec, execPassageReceived] at h
      obtain ⟨-, ⟨-, ht⟩ | ⟨-, ht⟩⟩ := unlessReset_next h
      · rw [ht]; exact hu
      · rw [ht]
        split
        next p rest hfront =>
          refine handleFrame_requestsOk (u := popHandlerFrame s.unit) (hframes _ ?_) hu
          rw [hfront]
          exact List.mem_cons_self
        next => exact hu
    · simp only [exec, execTableMarkRead] at h
      obtain ⟨-, ⟨-, ht⟩ | ⟨-, ht⟩⟩ := unlessReset_next h
      · rw [ht]; exact hu
      · rw [ht]
        split
        · split
          · exact endRunning_requestsOk hu hframes
          · exact hu
        all_goals exact hu
    · simp only [exec, execTableRecordRead] at h
      obtain ⟨-, ⟨-, ht⟩ | ⟨-, ht⟩⟩ := unlessReset_next h
      · rw [ht]; exact hu
      · rw [ht]
        split
        case h_1 remaining position _ =>
          rcases readRecord_cases type body.toList remaining position s.unit with ⟨-, htable⟩ | ⟨w, hw, htable, hhandler⟩
          · unfold RequestsOk
            rw [htable]
            exact hu
          · rw [hw]
            refine endRunning_requestsOk ?_ ?_
            · unfold RequestsOk; rw [htable]; exact hu
            · unfold PassagesOk; rw [hhandler]; exact hframes
        all_goals exact hu
  · by_cases hreset : c = .hardReset
    · subst hreset
      rw [execHardReset_unit h]
      exact nofun
    · exact writes_keep (write_requestsOk hc) (exec_writes h hreset) hu

/-- Every command keeps the frames that wait in their ranges. -/
theorem exec_passagesOk {c : Instr} {s t : State} (h : exec c s = .next t) (hframes : PassagesOk s.unit) : PassagesOk t.unit := by
  by_cases hreset : c = .hardReset
  · subst hreset
    rw [execHardReset_unit h]
    exact nofun
  · by_cases hc : ∃ header payload check, c = .frameReceived header payload check
    · obtain ⟨header, payload, check, rfl⟩ := hc
      simp only [exec, execFrameReceived] at h
      obtain ⟨-, ⟨-, ht⟩ | ⟨-, ht⟩⟩ := unlessReset_next h
      · rw [ht]; exact hframes
      · rw [ht]
        split
        · exact receiveFrame_passagesOk _ _ _ hframes
        · exact hframes
    · refine writes_keep (write_passagesOk fun header payload check hrec => hc ⟨header, payload, check, hrec⟩)
        (exec_writes h hreset) hframes

/-! ### Every step -/

theorem exec_agreed {c : Instr} {s t : State} (h : exec c s = .next t) (hs : Agreed s.unit) (hrequests : RequestsOk s.unit) :
    Agreed t.unit := by
  by_cases hreset : c = .hardReset
  · subst hreset
    rw [execHardReset_unit h]
    exact agreedOn_free (fun i _ e he => by simp [entryIn, Bn24.reset] at he) rfl rfl
  · cases hc : writesEntries c with
    | true => rw [exec_effectOf h]; exact effectOf_agreed hc hs hrequests
    | false =>
      have hwrites := exec_writes h hreset
      exact hs.congr (writes_same (·.table.slots) (fun _ _ hw => (write_entries hc hw).1) hwrites)
        (writes_same (·.arbiter.slot) (fun _ _ hw => (write_entries hc hw).2.1) hwrites)
        (writes_same (·.arbiter.joins) (fun _ _ hw => (write_entries hc hw).2.2) hwrites)

/-- The invariant of entries and grant slot is the agreement of every slot, with requests and frames in their ranges. -/
theorem grantInvariant_iff (u : Bn24) : GrantInvariant u ↔ HeldOk u ∧ Agreed u ∧ RequestsOk u ∧ PassagesOk u := by
  rw [agreed_iff]
  constructor
  · rintro ⟨hheld, ⟨hentries, hrequests, hframes⟩, harbiter⟩
    exact ⟨hheld, ⟨hentries, harbiter⟩, hrequests, hframes⟩
  · rintro ⟨hheld, ⟨hentries, harbiter⟩, hrequests, hframes⟩
    exact ⟨hheld, ⟨hentries, hrequests, hframes⟩, harbiter⟩

/-- Settles O56, slot by slot: the operations that write entries keep each slot as the grant slot names it (`effectOf_agreed`), the
other commands touch neither (`write_entries`). -/
theorem everyStepKeepsEntriesAndGrantInAgreement : Obligations.EveryStepKeepsEntriesAndGrantInAgreement := by
  unfold Obligations.EveryStepKeepsEntriesAndGrantInAgreement
  intro s t hs h
  refine step_keeps_of_exec (P := GrantInvariant) (fun c s t h hs => ?_) (fun u hu => ?_) h hs
  · obtain ⟨hheld, hagreed, hrequests, hframes⟩ := (grantInvariant_iff s.unit).mp hs
    exact (grantInvariant_iff t.unit).mpr ⟨exec_heldOk h hheld, exec_agreed h hagreed hrequests,
      exec_requestsOk h hrequests hframes, exec_passagesOk h hframes⟩
  · obtain ⟨hheld, hagreed, hrequests, hframes⟩ := (grantInvariant_iff u).mp hu
    refine (grantInvariant_iff (tick u)).mpr ⟨tick_heldOk hheld, ?_, ?_, ?_⟩
    all_goals rw [tick_frame]
    · exact hagreed.congr rfl rfl rfl
    · exact hrequests
    · exact hframes

end Sys2Proof.Machine
end

section
/-! The machine's step, the hard reset, and the Configuration Loader up to the parameter block (section 2, chapter 9). -/

open Sys2Proof Sys2Proof.Machine

namespace Sys2Proof.Machine

/-! ### The machine -/

/-- Out of reset a command's answer is its effect on the unit. -/
theorem exec_act {c : Instr} {s : State} {v : Bn24} (h : Active s)
    (hv : effectOf c s.unit = if s.unit.resetHeld then s.unit else v) : exec c s = .next { s with unit := v } := by
  rw [exec_eq_effectOf, hv, if_neg (by simp [h])]

/-- Out of reset a command without an effect leaves the state. -/
theorem exec_idle {c : Instr} {s : State} {v : Bn24} (h : Active s)
    (hv : effectOf c s.unit = if s.unit.resetHeld then s.unit else v) (hidle : v = s.unit) : exec c s = .next s := by
  rw [exec_act h hv, hidle]

/-- With no queue of the unit's own in use, what is due is a timer's command. -/
theorem ownCommand_eq_timerCommand {u : Bn24} (h : u.resetHeld = false) (hrequests : u.table.requests = [])
    (hhandler : u.handler.requests = []) (hframes : u.handler.frames = []) (hbeacons : u.clock.beacons = [])
    (hjoins : u.arbiter.joins = []) : ownCommand u = timerCommand u := by
  simp [ownCommand, queuedCommand, tableCommand, handlerCommand, frameCommand, commandIf, h, hrequests, hhandler, hframes,
    hbeacons, hjoins]

/-- Settles O1: a step is `exec` of the front command, and on an empty queue `idle`. -/
theorem stepRunsFrontCommand : Obligations.StepRunsFrontCommand := by
  unfold Obligations.StepRunsFrontCommand
  refine ⟨fun c rest u => rfl, fun u => ⟨fun hheld => ?_, fun c hc => ?_, fun h hr hh hf hb hj ht => ?_⟩⟩
  · simp [step, idle, ownCommand, tick, hheld]
  · simp [step, idle, hc]
  · refine ⟨u.localTime + 1, by simp [BitVec.toNat_add], ?_⟩
    have hnone := (ownCommand_eq_timerCommand h hr hh hf hb hj).trans ht
    simp [step, idle, hnone, tick, h]

/-- Settles O2: every command's answer is its effect (`exec_eq_effectOf`). -/
theorem everyCommandAnswersNext : Obligations.EveryCommandAnswersNext := by
  unfold Obligations.EveryCommandAnswersNext
  refine ⟨fun c s => ⟨_, exec_eq_effectOf c s⟩, fun s => ?_⟩
  have idles (r : State) : ∃ t, idle r = .next t := by
    unfold idle
    split
    · exact ⟨_, exec_eq_effectOf _ r⟩
    · exact ⟨_, rfl⟩
  unfold step
  split
  · exact ⟨_, exec_eq_effectOf _ _⟩
  · exact idles s

/-- Settles O3: the state after HARD_RESET is `Bn24.reset`, whose fields the statement reads. -/
theorem hardResetSetsEveryBlock : Obligations.HardResetSetsEveryBlock := by
  unfold Obligations.HardResetSetsEveryBlock
  intro s
  refine ⟨{ s with unit := .reset }, rfl, rfl, rfl, fun i => by simp [entryIn, Bn24.reset], rfl, rfl, rfl, rfl,
    fun a => by simp [phaseOf, Bn24.reset], rfl, rfl, rfl, rfl, rfl, rfl, rfl, rfl, rfl, rfl, rfl, rfl, rfl,
    fun c => by simp [counterOf, Bn24.reset], fun f => by simp [flagSet, Bn24.reset], rfl, rfl, rfl, rfl, rfl, rfl, rfl, rfl, rfl,
    rfl, rfl, rfl, rfl⟩

/-- Settles O53: each invariant is about empty collections, a FREE slot and a clock that is OFF. -/
theorem invariantsHoldAfterReset : Obligations.InvariantsHoldAfterReset := by
  unfold Obligations.InvariantsHoldAfterReset
  have hslots (i : SlotIx) : entryIn State.reset.unit i = none := by simp [entryIn, State.reset, Bn24.reset]
  have hheld : HeldOk State.reset.unit := fun _ => rfl
  have hrun : LoadOk State.reset.unit := fun h => absurd rfl h
  have hagreed : Agreed State.reset.unit := agreedOn_free (fun i _ e he => by rw [hslots i] at he; cases he) rfl rfl
  exact ⟨rfl, ⟨by decide, fun _ => rfl⟩, ⟨Nat.zero_le _, .nil⟩, Nat.zero_le _, framesOk_nil, ⟨Nat.zero_le _, .nil⟩,
    keysOk_of_empty hslots, (grantInvariant_iff _).mpr ⟨hheld, hagreed, nofun, nofun⟩,
    ⟨hheld, hrun, fun _ => ⟨rfl, rfl, rfl, rfl, rfl, rfl, rfl, rfl, rfl, rfl, rfl, rfl, rfl⟩⟩,
    ⟨hheld, hrun, fun _ => rfl, trivial, nofun, nofun⟩, trivial, trivial⟩

/-! ### The start of a load and its faults -/

theorem flag_loadFault (u : Bn24) : flag .loadFault u = { u with maint.flags := u.maint.flags ||| 0x0001 } := rfl

theorem resetRelease_effect {s : State} (hs : s.unit = Bn24.reset) (madr : BitVec 2) (pulses : Nat) :
    exec (.resetRelease madr pulses) s = .next { s with unit := releaseReset madr pulses s.unit } := by
  have hheld : s.unit.resetHeld = true := by rw [hs]; rfl
  simp [exec, execResetRelease, hheld]

/-- A record's bytes as the memory still has them are read at most to byte 2047 (R187). -/
theorem bytesRead_record (left pos : Nat) (type : Byte) (body : Vector Byte 11) :
    bytesRead (.records (left + 1) pos) (.tableRecordRead type body) =
      min (2048 - pos) (if type = 1 then 12 else if type = 2 then 7 else if type = 3 then 8 else if type = 4 then 5 else 1) := by
  simp only [bytesRead, bodyLength, Config.lastImageByte]
  rw [Nat.min_comm]
  congr 1
  split_ifs <;> rfl

/-- Settles O4: the first load and the faults by their one effect each; the memory line by `bytesRead_record` for a record. -/
theorem loadsBeginAndFail : Obligations.LoadsBeginAndFail := by
  unfold Obligations.LoadsBeginAndFail
  refine ⟨fun s madr pulses => ⟨fun hs hp => ?_, fun hs hp => ?_, fun hs => ?_⟩,
    fun s c hs hc => ⟨fun hrun hplace => ?_, fun hout => ?_⟩,
    fun pulses => ?_, fun s t c n hs hexec hread => ?_⟩
  · have hfreed : esdaFreed pulses = true := decide_eq_true hp
    rw [resetRelease_effect hs]
    simp [releaseReset, beginLoad, hfreed, setLoader, hs, Bn24.reset]
  · have hheld : esdaFreed pulses = false := decide_eq_false (by simpa [Config.clearPulses] using hp)
    rw [resetRelease_effect hs]
    simp [releaseReset, beginLoad, hheld, setLoader, faultLoad, endUnconfigured, flag_loadFault, hs, Bn24.reset]
  · simp [exec, execResetRelease, hs]
  · rcases hc with rfl | rfl
    · have hphase : s.unit.loader.phase = .addressing := hplace.resolve_right fun h => absurd h.1 (by simp)
      refine (exec_act hs rfl).trans ?_
      rw [if_pos (by simp [addressingMemory, hrun, hphase])]
      rfl
    · have hphase : s.unit.loader.phase ≠ .none := by
        rcases hplace with h | ⟨-, h⟩
        · simp [h]
        · exact h
      refine (exec_act hs rfl).trans ?_
      rw [if_pos (by simp [loadInProgress, hrun, hphase])]
      rfl
  · rcases hc with rfl | rfl
    · refine exec_idle hs rfl (if_neg ?_)
      rcases hout with h | ⟨-, h⟩ <;> simp [addressingMemory, h]
    · have hrun : s.unit.loader.run ≠ .loading := hout.resolve_right fun h => absurd h.1 (by simp)
      exact exec_idle hs rfl (if_neg (by simp [loadInProgress, hrun]))
  · unfold openingSignals esdaFreed
    by_cases hp : pulses ≤ Config.clearPulses
    · rw [if_pos (decide_eq_true hp), if_pos (show pulses ≤ 9 from hp)]; rfl
    · rw [if_neg (by simpa using hp), if_neg (show ¬ pulses ≤ 9 from hp)]; rfl
  · have answers (hn : n ≠ 0) : readAnswers n t.unit.loader.phase =
        if t.unit.loader.phase = .none then List.replicate (n - 1) .acknowledge ++ [.noAcknowledge, .stop]
        else List.replicate n .acknowledge := if_neg hn
    rcases hread with ⟨hphase, rfl, mark, rfl⟩ | ⟨hphase, rfl, a, b, d, e, rfl⟩ | ⟨hphase, rfl, mark, block, rfl⟩
      | ⟨hphase, mark, count, rfl, rfl⟩ | ⟨left, pos, type, body, hphase, hpos, rfl, rfl⟩
    · exact ⟨by rw [hphase]; rfl, answers (by decide)⟩
    · exact ⟨by rw [hphase]; rfl, answers (by decide)⟩
    · exact ⟨by rw [hphase]; rfl, answers (by decide)⟩
    · exact ⟨by rw [hphase]; rfl, answers (by split <;> decide)⟩
    · refine ⟨by rw [hphase]; exact bytesRead_record left pos type body, answers ?_⟩
      split_ifs <;> omega

/-! ### The first five bytes -/

/-- Settles O5: both commands by their effect at their place of the load. -/
theorem firstFiveBytesDecide : Obligations.FirstFiveBytesDecide := by
  unfold Obligations.FirstFiveBytesDecide
  intro s mark station rate site0 site1 hs
  refine ⟨fun hphase => ?_, fun hphase => ?_⟩
  · refine (exec_act hs rfl).trans ?_
    simp only [hphase]
    by_cases hmark : mark = Config.imageMark
    · rw [if_pos hmark]; exact (if_pos hmark).symm
    · rw [if_neg hmark]; exact (if_neg hmark).symm
  · have hzero : station = 0 ↔ station.toNat = 0 := by
      rw [← BitVec.toNat_inj]; rfl
    refine (exec_act hs rfl).trans ?_
    simp only [hphase, readIdentity]
    by_cases hin : 1 ≤ station.toNat ∧ station.toNat ≤ 60
    · rw [if_neg (by rw [hzero]; omega), if_pos hin]
      have hrate : rateOf rate = if rate.toNat = 0 then .r4800 else if rate.toNat = 1 then .r9600 else .r19200 := by
        simp [rateOf, ← BitVec.toNat_inj]
      rw [hrate]
      rfl
    · rw [if_pos (by rw [hzero]; omega), if_neg hin]
      rfl

end Sys2Proof.Machine
end

section
/-! The ends of a load in RUNNING (R180, R187 to R190): what a start leaves to every block, the records as they are read, and the
lock state that a saved one resumes. -/

open Sys2Proof Sys2Proof.Machine

namespace Sys2Proof.Machine

/-! ### What a start of the clock changes -/

/-- Of a unit only the Corridor Time Unit, its offset, peer table and beacon timer aside, and the flags LOCK_EVENT and HOLDOVER
change. -/
structure ClockOnly (u v : Bn24) : Prop where
  frame : v = { u with clock := v.clock, maint.flags := v.maint.flags }
  flags : ∀ f, f ≠ .lockEvent → f ≠ .holdover → flagSet f v = flagSet f u
  low : v.maint.flags &&& 0x0007 = u.maint.flags &&& 0x0007
  offset : v.clock.offset = u.clock.offset
  peers : v.clock.peers = u.clock.peers
  beaconStart : v.clock.beaconStart = u.clock.beaconStart
  saved : v.clock.saved = u.clock.saved
  noted : v.clock.noted = u.clock.noted

theorem ClockOnly.refl (u : Bn24) : ClockOnly u u := ⟨rfl, fun _ _ _ => rfl, rfl, rfl, rfl, rfl, rfl, rfl⟩

theorem ClockOnly.trans {u v w : Bn24} (h : ClockOnly u v) (h' : ClockOnly v w) : ClockOnly u w := by
  obtain ⟨hf, hflags, hlow, ho, hp, hb, hs, hn⟩ := h
  obtain ⟨hf', hflags', hlow', ho', hp', hb', hs', hn'⟩ := h'
  refine ⟨?_, fun f h1 h2 => (hflags' f h1 h2).trans (hflags f h1 h2), hlow'.trans hlow, ho'.trans ho, hp'.trans hp, hb'.trans hb,
    hs'.trans hs, hn'.trans hn⟩
  rw [hf', hf]

theorem clockOnly_setClock {f : TimeUnit → TimeUnit} {u : Bn24} (ho : (f u.clock).offset = u.clock.offset)
    (hp : (f u.clock).peers = u.clock.peers) (hb : (f u.clock).beaconStart = u.clock.beaconStart)
    (hs : (f u.clock).saved = u.clock.saved) (hn : (f u.clock).noted = u.clock.noted) : ClockOnly u (setClock f u) :=
  ⟨rfl, fun _ _ _ => rfl, rfl, ho, hp, hb, hs, hn⟩

theorem clockOnly_flag {f : Flag} (hf : f = .lockEvent ∨ f = .holdover) (u : Bn24) : ClockOnly u (flag f u) := by
  refine ⟨rfl, fun g h1 h2 => ?_, ?_, rfl, rfl, rfl, rfl, rfl⟩
  · rw [flagSet_flag]
    rcases hf with rfl | rfl
    · simp [Ne.symm h1]
    · simp [Ne.symm h2]
  · rw [flag_maint_flags, or_and_mask]
    rcases hf with rfl | rfl <;> simp [Flag.bit]

theorem leftState_clockOnly (old : LockState) (u : Bn24) : ClockOnly u (leftState old u) := by
  unfold leftState leftFine
  cases old
  case fine =>
    dsimp only
    split
    · exact clockOnly_flag (.inl rfl) u
    · exact .refl u
  all_goals exact .refl u

theorem enterAcquiring_clockOnly (u : Bn24) : ClockOnly u (enterAcquiring u) := clockOnly_setClock rfl rfl rfl rfl rfl

theorem enterFree_clockOnly (u : Bn24) : ClockOnly u (enterFree u) := clockOnly_setClock rfl rfl rfl rfl rfl

theorem enterHoldover_clockOnly (u : Bn24) : ClockOnly u (enterHoldover u) :=
  ((clockOnly_setClock rfl rfl rfl rfl rfl).trans (clockOnly_flag (.inr rfl) _)).trans (leftState_clockOnly _ _)

theorem resumeLock_clockOnly (v : SavedLock) (u : Bn24) : ClockOnly u (resumeLock v u) := by
  have restored : ClockOnly u (restoreLock v u) := clockOnly_setClock rfl rfl rfl rfl rfl
  unfold resumeLock
  dsimp only
  split
  · exact enterAcquiring_clockOnly u
  · exact enterAcquiring_clockOnly u
  · split
    · exact restored.trans (enterHoldover_clockOnly _)
    · exact restored
  · split
    · exact restored.trans (enterHoldover_clockOnly _)
    · exact restored
  · split
    · exact restored.trans (enterFree_clockOnly _)
    · exact restored
  · split
    · exact enterAcquiring_clockOnly u
    · exact restored

/-- The beacon timer starts and what was saved and noted is forgotten (R178, R180). -/
def clockBegun (u : Bn24) : Bn24 := setClock (fun c => { c with beaconStart := some u.localTime, saved := none, noted := none }) u

theorem clockStart_clockOnly (u : Bn24) : ClockOnly (clockBegun u) (clockStart u) := by
  unfold clockStart
  dsimp only
  split
  · split
    · exact resumeLock_clockOnly _ _
    · exact (enterAcquiring_clockOnly _).trans (leftState_clockOnly _ _)
  · exact enterAcquiring_clockOnly _

/-! ### What the end of a load gives every block -/

/-- What waits for the handler is settled with the clock, the loader, local time and the flags kept (R158). -/
theorem settleHandler_keeps (u : Bn24) :
    (settleHandler u).clock = u.clock ∧ (settleHandler u).loader = u.loader ∧ (settleHandler u).localTime = u.localTime
      ∧ (settleHandler u).maint.flags = u.maint.flags := by
  have h := keptByHandler_settleHandler u
  simp only [keptByHandler, Prod.mk.injEq] at h
  obtain ⟨hclock, hloader, htime, hflags, -⟩ := h
  exact ⟨hclock, hloader, htime, hflags⟩

/-- The unit as the clock starts at the end of a load (R190). -/
def readyToStart (u : Bn24) : Bn24 := startPort (startReceivers (installConfiguration (settleHandler u)))

/-- The clock starts with what it had, under the configuration just put in force. -/
theorem readyToStart_keeps (u : Bn24) :
    (readyToStart u).clock = u.clock ∧ (readyToStart u).localTime = u.localTime ∧ (readyToStart u).maint.flags = u.maint.flags
      ∧ (readyToStart u).loader.inForce = u.loader.working := by
  obtain ⟨hclock, hloader, htime, hflags⟩ := settleHandler_keeps u
  exact ⟨hclock, htime, hflags, congrArg Loader.working hloader⟩

/-- A load that ends in RUNNING has a working copy come into force and flags added (R187 to R190). -/
theorem loadEnds_of {s : State} {c : Instr} {w : Configuration} {flags : Half} {v : Bn24}
    (hexec : exec c s = .next { s with unit := endRunning v })
    (hv : v = { s.unit with loader.working := w, maint.flags := s.unit.maint.flags ||| flags }) : LoadEnds s c w flags := by
  obtain ⟨hclock, htime, hflags, hforce⟩ := readyToStart_keeps v
  have hstart := clockStart_clockOnly (readyToStart v)
  have hunit : endRunning v = { clockBegun (readyToStart v) with
      clock := (endRunning v).clock, maint.flags := (endRunning v).maint.flags } := hstart.frame
  refine ⟨⟨_, hexec, ?_, ?_, ?_, ?_, ?_, ?_, ?_, ?_, ?_, ?_, ?_, ?_, ?_⟩, fun hs hr hp => ?_⟩
  · rw [hunit]; rfl
  · rw [hunit]; rfl
  · rw [hunit]
    exact hforce.trans (by rw [hv])
  · rw [hunit]
    exact (congrArg (·.params.enables) hforce).trans (by rw [hv])
  · refine hstart.low.trans ?_
    change (readyToStart v).maint.flags &&& 0x0007 = _
    rw [hflags, hv]
  · rw [hunit]; rfl
  · rw [hunit]; rfl
  · rw [hunit]
    change some (settleHandler v).localTime = _
    exact congrArg some (htime.trans (by rw [hv]))
  · exact hstart.beaconStart.trans (congrArg some (htime.trans (by rw [hv])))
  · rw [hunit]; rfl
  · rw [hunit]; rfl
  · rw [hunit]; rfl
  · rw [hunit]; rfl
  · rw [hexec, endRunning_eq_startedWith s.unit v w flags hr hp hs hv]

/-! ### The parameter block and the table mark -/

/-- A byte of a block by its number. -/
theorem byteAt_toList {m : Nat} (b : Vector Byte m) (n : Nat) (h : n < m) : byteAt b.toList n = b[n] := by
  simp [byteAt, List.getD_eq_getElem?_getD, h]

theorem clamp_zero (hi x : Nat) : clamp 0 hi x = min hi x := by
  rw [clamp_eq 0 hi x (Nat.zero_le _), Nat.zero_max]

/-- Each parameter is taken clamped into its range (R186, R207). -/
theorem parseParameters_eq (b : Vector Byte 18) :
    parseParameters b.toList =
      { beaconInterval := max 10 (min 100 b[0].toNat)
        referenceTimeout := max 30 (min 1000 (b[1] ++ b[2]).toNat)
        holdoverLimit := max 100 (min 6000 (b[3] ++ b[4]).toNat)
        sendBudget := max 5 (min 50 b[5].toNat)
        staleLimit := max 100 (min 1200 (b[6] ++ b[7]).toNat)
        untimedLife := max 300 (min 6000 (b[8] ++ b[9]).toNat)
        margin := min 50 b[10].toNat, grace := min 100 b[11].toNat, ahead := min 120 b[12].toNat
        chainLimit := min 15 b[13].toNat, lockEventMode := min 3 b[14].toNat
        enables := b[15] ++ b[16] } := by
  simp (disch := decide) only [parseParameters, halfAt, byteAt_toList, Nat.reduceAdd, clamp_zero]
  simp only [clamp_eq 10 100 _ (by decide), clamp_eq 30 1000 _ (by decide), clamp_eq 100 6000 _ (by decide),
    clamp_eq 5 50 _ (by decide), clamp_eq 100 1200 _ (by decide), clamp_eq 300 6000 _ (by decide)]

/-- Settles O6: the parameter block by `parseParameters_eq`, the end of the load by `endRunning_eq_startedWith`. -/
theorem parametersThenTheTableMark : Obligations.ParametersThenTheTableMark := by
  unfold Obligations.ParametersThenTheTableMark
  refine ⟨fun s mark b hs hphase => ?_, fun s mark n hs hphase => ⟨fun hmark hn => ?_, fun hends hsaved hrun hport => ?_⟩⟩
  · refine (exec_act hs rfl).trans ?_
    simp only [hphase, readParameters]
    by_cases hmark : mark = Config.imageMark
    · rw [if_pos (show mark = 0x6C from hmark), ← parseParameters_eq b]
      simp [setLoader, hmark]
    · rw [if_neg (show ¬ mark = 0x6C from hmark)]
      simp [setLoader, hmark]
  · refine (exec_act hs rfl).trans ?_
    have hgoes : ¬ (mark ≠ Config.imageMark ∨ n = 0) := not_or.mpr ⟨not_not.mpr hmark, hn⟩
    simp only [hphase]
    rw [if_neg hgoes]
    rfl
  · refine (exec_act hs rfl).trans ?_
    have hends : mark ≠ Config.imageMark ∨ n = 0 := hends
    simp only [hphase]
    rw [if_pos hends, endRunning_eq_startedWith s.unit s.unit s.unit.loader.working 0 hrun hport hsaved (by simp)]
    have hflags : (countTimes .forecastDiscarded (s.unit.handler.frames.filter (refusedHere s.unit)).length s.unit).maint.flags
        = s.unit.maint.flags := by
      rw [countTimes_maint]
    simp [startedWith, ← hflags]

/-! ### Records -/

/-- A counted record, its working copy and its flags known, goes on, is the last, or overflows the memory (R187). -/
theorem recordThen_of {s : State} {type : Byte} {b : Vector Byte 11} {left pos len : Nat} {w : Configuration} {flags : Half}
    (hs : Active s) (hphase : s.unit.loader.phase = .records (left + 1) pos) (hlen : bodyLength type = some len)
    (htake : takeOrSkip type b.toList s.unit
      = { s.unit with loader.working := w, maint.flags := s.unit.maint.flags ||| flags }) :
    RecordThen s (.tableRecordRead type b) left pos len flags w := by
  have hexec : exec (.tableRecordRead type b) s = .next { s with unit := readRecord type b.toList left pos s.unit } := by
    refine (exec_act hs rfl).trans ?_
    simp only [hphase]
  have hread (hfits : pos + len ≤ 2047) : exec (.tableRecordRead type b) s
      = .next { s with unit := nextRecord left (pos + 1 + len) (takeOrSkip type b.toList s.unit) } := by
    rw [hexec, readRecord, hlen]
    dsimp only
    rw [if_neg (by simpa [Config.lastImageByte] using hfits)]
  refine ⟨fun hleft hin => ?_, fun hleft hin => ?_, fun hleft hin => ?_⟩
  · rw [hread (by omega), nextRecord, if_neg (by omega), if_neg (by simp only [Config.lastImageByte]; omega), htake]
    rfl
  · refine loadEnds_of (v := flag .loadOverflow (takeOrSkip type b.toList s.unit)) ?_ ?_
    · rw [hread (by omega), nextRecord, if_neg (by omega), if_pos (by simp only [Config.lastImageByte]; omega)]
      rfl
    · rw [htake, ← BitVec.or_assoc]
      rfl
  · refine loadEnds_of (v := takeOrSkip type b.toList s.unit) ?_ htake
    rw [hread hin, nextRecord, if_pos hleft]

/-- A record that is taken leaves the flags (R188). -/
theorem takeOrSkip_taken {type : Byte} {body : List Byte} {u : Bn24} {w : Configuration}
    (h : takeRecord type body u.loader.working = some w) :
    takeOrSkip type body u = { u with loader.working := w, maint.flags := u.maint.flags ||| 0 } := by
  simp [takeOrSkip, h, setLoader]

/-- A record that is skipped leaves the working copy and flags TABLE_FORMAT (R188). -/
theorem takeOrSkip_skipped {type : Byte} {body : List Byte} {u : Bn24} (h : takeRecord type body u.loader.working = none) :
    takeOrSkip type body u
      = { u with loader.working := u.loader.working, maint.flags := u.maint.flags ||| 0x0004 } := by
  rw [takeOrSkip, h]
  rfl

/-- A number 1 to n names an index, and any other number none. -/
theorem indexOf_eq_some {n : Nat} {b : Byte} {i : Fin n} (h : b.toNat = i.val + 1) : indexOf n b = some i := by
  have hi := i.isLt
  unfold indexOf
  rw [dif_pos ⟨by omega, by omega⟩]
  congr
  omega

theorem indexOf_eq_none {n : Nat} {b : Byte} (h : b.toNat = 0 ∨ n < b.toNat) : indexOf n b = none :=
  dif_neg (by omega)

theorem roleOf_eq {b : Byte} {role : Role} (h : (role = .cross ∧ b &&& 0x7F = 0) ∨ (role = .outbound ∧ b &&& 0x7F = 1)
    ∨ (role = .inbound ∧ b &&& 0x7F = 2)) : roleOf b = some role := by
  rcases h with ⟨rfl, h⟩ | ⟨rfl, h⟩ | ⟨rfl, h⟩ <;> (simp only [roleOf, h]; rfl)

theorem roleOf_eq_none {b : Byte} (h : 2 < (b &&& 0x7F).toNat) : roleOf b = none := by
  have hne (k : Byte) (hk : k.toNat ≤ 2) : b &&& 0x7F ≠ k := fun heq => by rw [heq] at h; omega
  simp only [roleOf, if_neg (hne 0 (by decide)), if_neg (hne 1 (by decide)), if_neg (hne 2 (by decide))]

theorem pointKindOf_eq {b : Byte} {kind : PointKind} (h : (kind = .checkIn ∧ b &&& 0x7F = 1) ∨ (kind = .checkOut ∧ b &&& 0x7F = 2)) :
    pointKindOf b = some kind := by
  rcases h with ⟨rfl, h⟩ | ⟨rfl, h⟩ <;> (simp only [pointKindOf, h]; rfl)

theorem pointKindOf_eq_none {b : Byte} (h : (b &&& 0x7F).toNat = 0 ∨ 2 < (b &&& 0x7F).toNat) : pointKindOf b = none := by
  have hne (k : Byte) (hk : 1 ≤ k.toNat ∧ k.toNat ≤ 2) : b &&& 0x7F ≠ k := fun heq => by rw [heq] at h; omega
  simp only [pointKindOf, if_neg (hne 1 (by decide)), if_neg (hne 2 (by decide))]

theorem parseApproach_eq {b : Vector Byte 11} {a : ApproachIx} {role : Role} (ha : b[0].toNat = a.val + 1)
    (hrole : (role = .cross ∧ b[1] &&& 0x7F = 0) ∨ (role = .outbound ∧ b[1] &&& 0x7F = 1)
      ∨ (role = .inbound ∧ b[1] &&& 0x7F = 2)) :
    parseApproach b.toList = some (a,
      { role := role, nearSide := b[1].getLsbD 7, enabled := decide (b[2] ≠ 0)
        eMax := min 60 b[3].toNat * 10, tMax := min 60 b[4].toNat * 10
        vMin := max 20 (min 300 (b[5] ++ b[6]).toNat)
        vMax := max (max 20 (min 300 (b[5] ++ b[6]).toNat)) (min 300 (b[7] ++ b[8]).toNat)
        dwell := min 60 b[9].toNat * 10, spread := min 50 b[10].toNat }) := by
  have hmax (x y : Nat) : (if max 20 (min 300 y) < max 20 (min 300 x) then max 20 (min 300 x) else max 20 (min 300 y))
      = max (max 20 (min 300 x)) (min 300 y) := by
    split <;> omega
  simp (disch := decide) only [parseApproach, halfAt, byteAt_toList, Nat.reduceAdd, approachOf, indexOf_eq_some ha, roleOf_eq hrole,
    clamp_zero, clamp_eq 20 300 _ (by decide : 20 ≤ 300), hmax]

theorem parsePoint_eq {b : Vector Byte 11} {p : PointIx} {a : ApproachIx} {kind : PointKind} (hp : b[0].toNat = p.val + 1)
    (ha : b[1].toNat = a.val + 1) (hkind : (kind = .checkIn ∧ b[2] &&& 0x7F = 1) ∨ (kind = .checkOut ∧ b[2] &&& 0x7F = 2)) :
    parsePoint b.toList = some (p,
      { approach := a, kind := kind, stopAhead := b[2].getLsbD 7
        distance := max 10 (min 3000 (b[3] ++ b[4]).toNat), nominal := 2 * b[5].toNat }) := by
  simp (disch := decide) only [parsePoint, halfAt, byteAt_toList, Nat.reduceAdd, approachOf, pointOf, indexOf_eq_some ha,
    indexOf_eq_some hp, pointKindOf_eq hkind, clamp_eq 10 3000 _ (by decide : 10 ≤ 3000), Nat.mul_comm 2]

theorem parseLink_eq {b : Vector Byte 11} {a : ApproachIx} {d : FlowDirection}
    (hd : (d = .outbound ∧ b[0] = 1) ∨ (d = .inbound ∧ b[0] = 2)) (ha : b[1].toNat = a.val + 1) (hup : b[2].toNat ≤ 60)
    (hdown : b[3].toNat ≤ 60) :
    parseLink b.toList = some (d,
      { approach := a, upstream := b[2].toNat, downstream := b[3].toNat
        linkTime := max 10 (min 1200 (b[4] ++ b[5]).toNat) * 10, spread := min 50 b[6].toNat }) := by
  have hdirection : (if b[0] = 1 then some FlowDirection.outbound else if b[0] = 2 then some .inbound else none) = some d := by
    rcases hd with ⟨rfl, h⟩ | ⟨rfl, h⟩ <;> simp [h]
  simp (disch := decide) only [parseLink, halfAt, byteAt_toList, Nat.reduceAdd, approachOf, indexOf_eq_some ha, hdirection,
    clamp_zero, clamp_eq 10 1200 _ (by decide : 10 ≤ 1200), hup, hdown, and_self, if_true]

theorem parseWeights_eq (b : Vector Byte 11) :
    parseWeights b.toList = #v[min 7 b[0].toNat, min 7 b[1].toNat, min 7 b[2].toNat, min 7 b[3].toNat] := by
  simp (disch := decide) only [parseWeights, byteAt_toList, clamp_zero]

/-- Settles O8: what each record type parses to, taken by `takeOrSkip_taken`, and what follows by `recordThen_of`. -/
theorem recordsAreTakenClamped : Obligations.RecordsAreTakenClamped := by
  unfold Obligations.RecordsAreTakenClamped
  intro s b left pos a hs hphase w
  refine ⟨fun role ha hrole => ?_, fun p kind hp ha hkind => ?_, ?_, ?_⟩
  · refine recordThen_of hs hphase rfl (takeOrSkip_taken ?_)
    simp [takeRecord, parseApproach_eq ha hrole, w]
  · refine recordThen_of hs hphase rfl (takeOrSkip_taken ?_)
    simp [takeRecord, parsePoint_eq hp ha hkind, w]
  · intro ha hup hdown link
    refine ⟨fun hd => recordThen_of hs hphase rfl (takeOrSkip_taken ?_), fun hd => recordThen_of hs hphase rfl (takeOrSkip_taken ?_)⟩
    · simp [takeRecord, parseLink_eq (d := .outbound) (.inl ⟨rfl, hd⟩) ha hup hdown, w, link]
    · simp [takeRecord, parseLink_eq (d := .inbound) (.inr ⟨rfl, hd⟩) ha hup hdown, w, link]
  · refine recordThen_of hs hphase rfl (takeOrSkip_taken ?_)
    simp [takeRecord, parseWeights_eq, w]

/-- An unknown type ends the table part (R187). -/
theorem bodyLength_eq_none {type : Byte} (h : type.toNat = 0 ∨ 4 < type.toNat) : bodyLength type = none := by
  have hne (k : Byte) (hk : 1 ≤ k.toNat ∧ k.toNat ≤ 4) : type ≠ k := fun heq => by rw [heq] at h; omega
  simp only [bodyLength, if_neg (hne 1 (by decide)), if_neg (hne 2 (by decide)), if_neg (hne 3 (by decide)),
    if_neg (hne 4 (by decide))]

/-- Settles O9: a naming field outside its set parses to none and is skipped by `takeOrSkip_skipped`; the other ends of the table
part end the load (`loadEnds_of`). -/
theorem recordsAreSkippedAndTheTableEnds : Obligations.RecordsAreSkippedAndTheTableEnds := by
  unfold Obligations.RecordsAreSkippedAndTheTableEnds
  intro s type b left pos hs hphase w
  have hexec : exec (.tableRecordRead type b) s = .next { s with unit := readRecord type b.toList left pos s.unit } := by
    refine (exec_act hs rfl).trans ?_
    simp only [hphase]
  refine ⟨fun hout => ?_, fun hout => ?_, fun hout => ?_, fun htype => ?_, fun len htype hpos => ?_⟩
  · refine recordThen_of hs hphase rfl (takeOrSkip_skipped ?_)
    have hnone : parseApproach b.toList = none := by
      simp (disch := decide) only [parseApproach, byteAt_toList]
      rcases or_assoc.mpr hout with h | h
      · simp [approachOf, indexOf_eq_none h]
      · rw [roleOf_eq_none h]
        cases approachOf b[0] <;> rfl
    simp [takeRecord, hnone]
  · refine recordThen_of hs hphase rfl (takeOrSkip_skipped ?_)
    have hnone : parsePoint b.toList = none := by
      simp (disch := decide) only [parsePoint, byteAt_toList]
      rcases hout with h | h | h | h | h
      · simp [pointOf, indexOf_eq_none (.inl h)]
      · simp [pointOf, indexOf_eq_none (.inr h)]
      · simp [approachOf, indexOf_eq_none (.inl h)]
      · simp [approachOf, indexOf_eq_none (.inr h)]
      · rw [pointKindOf_eq_none h]
        cases pointOf b[0] <;> cases approachOf b[1] <;> rfl
    simp [takeRecord, hnone]
  · refine recordThen_of hs hphase rfl (takeOrSkip_skipped ?_)
    have hnone : parseLink b.toList = none := by
      simp (disch := decide) only [parseLink, byteAt_toList]
      rcases hout with h | h | h | h | h
      · have h1 : b[0] ≠ 1 := fun heq => by rw [heq] at h; exact absurd h (by decide)
        have h2 : b[0] ≠ 2 := fun heq => by rw [heq] at h; exact absurd h (by decide)
        simp only [if_neg h1, if_neg h2]
      · have h1 : b[0] ≠ 1 := fun heq => by rw [heq] at h; exact absurd h (by decide)
        have h2 : b[0] ≠ 2 := fun heq => by rw [heq] at h; exact absurd h (by decide)
        simp only [if_neg h1, if_neg h2]
      · simp [approachOf, indexOf_eq_none (.inl h)]
      · simp [approachOf, indexOf_eq_none (.inr h)]
      · have hlinks : ¬ (b[2].toNat ≤ 60 ∧ b[3].toNat ≤ 60) := by omega
        simp only [if_neg hlinks]
        split <;> rfl
    simp [takeRecord, hnone]
  · refine loadEnds_of (v := flag .tableFormat s.unit) ?_ rfl
    rw [hexec, readRecord, bodyLength_eq_none htype]
  · refine loadEnds_of (v := flag .loadOverflow s.unit) ?_ rfl
    have hlen : bodyLength type = some len := by
      have htype' (k : Byte) (h : type.toNat = k.toNat) : type = k := BitVec.eq_of_toNat_eq h
      rcases htype with ⟨h, rfl⟩ | ⟨h, rfl⟩ | ⟨h, rfl⟩ | ⟨h, rfl⟩
      · rw [htype' 1 h]; rfl
      · rw [htype' 2 h]; rfl
      · rw [htype' 3 h]; rfl
      · rw [htype' 4 h]; rfl
    rw [hexec, readRecord, hlen]
    dsimp only
    rw [if_pos (show Config.lastImageByte < pos + len from hpos)]
    rfl

end Sys2Proof.Machine
end

section
/-! RUNNING resumes what a RELOAD saved of the lock (R180). -/

open Sys2Proof Sys2Proof.Machine

namespace Sys2Proof.Machine

/-! ### The load that ends -/

/-- A record read in a load ends it, if it does, with the clock, local time and the flags of the lock as they were (R187). -/
theorem readRecord_ends (type : Byte) (body : List Byte) (remaining position : Nat) (u : Bn24)
    (hends : (readRecord type body remaining position u).loader.run ≠ u.loader.run) :
    ∃ w, readRecord type body remaining position u = endRunning w ∧ w.clock = u.clock ∧ w.localTime = u.localTime
      ∧ flagSet .lockEvent w = flagSet .lockEvent u ∧ flagSet .holdover w = flagSet .holdover u := by
  have flagged (f : Flag) (hl : f ≠ .lockEvent) (hh : f ≠ .holdover) (w : Bn24) :
      flagSet .lockEvent (flag f w) = flagSet .lockEvent w ∧ flagSet .holdover (flag f w) = flagSet .holdover w := by
    simp [flagSet_flag, hl, hh]
  have taken : (takeOrSkip type body u).clock = u.clock ∧ (takeOrSkip type body u).localTime = u.localTime
      ∧ (takeOrSkip type body u).loader.run = u.loader.run
      ∧ flagSet .lockEvent (takeOrSkip type body u) = flagSet .lockEvent u
      ∧ flagSet .holdover (takeOrSkip type body u) = flagSet .holdover u := by
    unfold takeOrSkip
    split
    · exact ⟨rfl, rfl, rfl, rfl, rfl⟩
    · exact ⟨rfl, rfl, rfl, flagged .tableFormat nofun nofun u⟩
  obtain ⟨hclock, htime, hrun, hlock, hhold⟩ := taken
  have overflow (w : Bn24) := flagged .loadOverflow nofun nofun w
  unfold readRecord at hends ⊢
  split
  next => exact ⟨_, rfl, rfl, rfl, flagged .tableFormat nofun nofun u⟩
  next n hn =>
    rw [hn] at hends
    dsimp only at hends
    split
    · exact ⟨_, rfl, rfl, rfl, overflow u⟩
    next hfits =>
      rw [if_neg hfits] at hends
      unfold nextRecord at hends ⊢
      split
      · exact ⟨_, rfl, hclock, htime, hlock, hhold⟩
      next hleft =>
        rw [if_neg hleft] at hends
        split
        · exact ⟨_, rfl, hclock, htime, (overflow _).1.trans hlock, (overflow _).2.trans hhold⟩
        next hin =>
          rw [if_neg hin] at hends
          exact absurd hrun hends

/-- A command that ends a load in RUNNING leaves the clock, local time and the flags of the lock to the start. -/
theorem exec_endsRunning {s t : State} {c : Instr} (hs : Active s)
    (hc : (∃ mark count, c = .tableMarkRead mark count) ∨ ∃ type body, c = .tableRecordRead type body)
    (hload : s.unit.loader.run = .loading) (hexec : exec c s = .next t) (hrun : t.unit.loader.run = .running) :
    ∃ w, t.unit = endRunning w ∧ w.clock = s.unit.clock ∧ w.localTime = s.unit.localTime
      ∧ flagSet .lockEvent w = flagSet .lockEvent s.unit ∧ flagSet .holdover w = flagSet .holdover s.unit := by
  have hnot (h : t.unit.loader.run = s.unit.loader.run) : False := by
    rw [hrun, hload] at h
    cases h
  rcases hc with ⟨mark, n, rfl⟩ | ⟨type, body, rfl⟩
  · simp only [exec, execTableMarkRead] at hexec
    rw [unlessReset_active _ _ hs] at hexec
    injection hexec with hexec
    subst hexec
    dsimp only at hnot ⊢
    split at hnot
    next =>
      split at hnot
      next hends => exact ⟨s.unit, by rw [if_pos hends], rfl, rfl, rfl, rfl⟩
      next => exact absurd rfl hnot
    all_goals exact absurd rfl hnot
  · simp only [exec, execTableRecordRead] at hexec
    rw [unlessReset_active _ _ hs] at hexec
    injection hexec with hexec
    subst hexec
    dsimp only at hnot ⊢
    split at hnot
    next remaining position _ => exact readRecord_ends _ _ _ _ _ hnot
    all_goals exact absurd rfl hnot

/-! ### The lock resumed -/

/-- LOCK_EVENT of leaving FINE is flagged in its modes (R176). -/
def leavesFlagged (old : LockState) (u : Bn24) : Bool :=
  decide (old = .fine) && (decide ((paramsOf u).lockEventMode = 2) || decide ((paramsOf u).lockEventMode = 3))

theorem flagSet_leftState (old : LockState) (f : Flag) (u : Bn24) :
    flagSet f (leftState old u) = (flagSet f u || (decide (f = .lockEvent) && leavesFlagged old u)) := by
  unfold leftState leavesFlagged
  cases old
  case fine =>
    simp only [leftFine]
    split
    next h =>
      rw [flagSet_flag]
      rcases h with h | h <;> simp [h, eq_comm, Bool.or_comm]
    next h =>
      obtain ⟨h2, h3⟩ := not_or.mp h
      simp [h2, h3]
  all_goals simp

/-- HOLDOVER is entered from a lock state (R171, R175). -/
theorem enterHoldover_effect (u : Bn24) :
    (enterHoldover u).clock
        = { u.clock with lock := .holdover, fine := 0, miss := 0, holdStart := some u.localTime }
      ∧ flagSet .lockEvent (enterHoldover u) = (flagSet .lockEvent u || leavesFlagged u.clock.lock u)
      ∧ flagSet .holdover (enterHoldover u) = true := by
  refine ⟨?_, ?_, ?_⟩
  · unfold enterHoldover
    rw [leftState_clock]
    rfl
  · unfold enterHoldover
    rw [flagSet_leftState, flagSet_flag]
    rfl
  · unfold enterHoldover
    rw [flagSet_leftState, flagSet_flag]
    simp

/-- A record is stale once older than the reference timeout (R164). -/
theorem peerStale_iff (u : Bn24) (p : Peer) :
    peerStale u p = true ↔ ¬ age u.localTime p.last ≤ ((paramsOf u).referenceTimeout : Int) := by
  simp [peerStale]

theorem liveLower_iff (u : Bn24) (n : Nat) :
    liveLower u n = true ↔ ∃ p ∈ u.clock.peers, p.station < n
      ∧ age u.localTime p.last ≤ ((paramsOf u).referenceTimeout : Int) := by
  simp only [liveLower, List.any_eq_true, Bool.and_eq_true, decide_eq_true_eq, Bool.not_eq_true', ← Bool.not_eq_true, peerStale_iff,
    not_not]

/-- The record of a station, at most one of each being held, is the one that is found (R161). -/
theorem peerOf_eq_some {u : Bn24} (h : (u.clock.peers.map Peer.station).Nodup) {p : Peer} (hp : p ∈ u.clock.peers) :
    peerOf u p.station = some p := by
  unfold peerOf
  cases hfind : u.clock.peers.find? (fun q => decide (q.station = p.station)) with
  | none => simpa using List.find?_eq_none.mp hfind p hp
  | some q =>
    have hq : q.station = p.station := by simpa using List.find?_some hfind
    rw [List.inj_on_of_nodup_map h (List.mem_of_find?_eq_some hfind) hp hq]

/-- With something saved the clock resumes it under the same station and rate, and restarts under others (R180). -/
theorem clockStart_saved {u : Bn24} {v : SavedLock} {n : Nat × LineRate} (hv : u.clock.saved = some v) (hn : u.clock.noted = some n) :
    clockStart u = if n = (ownStation u, u.loader.inForce.rate) then resumeLock v (clockBegun u)
      else leftState v.lock (enterAcquiring (clockBegun u)) := by
  simp only [clockStart, hv, hn]
  rfl

/-- A saved COARSE or FINE is resumed, or enters HOLDOVER where its reference is stale (R171, R180). -/
theorem resumeLock_following {v : SavedLock} (h : v.lock = .coarse ∨ v.lock = .fine) (u : Bn24) :
    resumeLock v u = if referenceIsStale (restoreLock v u) then enterHoldover (restoreLock v u) else restoreLock v u := by
  rcases h with h | h <;> simp only [resumeLock, h]

/-- A reference that a saved COARSE or FINE follows is stale by its record (R164, R171). -/
theorem referenceIsStale_restored {v : SavedLock} (h : v.lock = .coarse ∨ v.lock = .fine) (u : Bn24) :
    referenceIsStale (restoreLock v u) = (match peerOf u v.reference with
      | some p => peerStale u p
      | none => false) := by
  have hlock : (decide ((restoreLock v u).clock.lock = .coarse) || decide ((restoreLock v u).clock.lock = .fine)) = true := by
    rcases h with h | h <;> simp [restoreLock, setClock, h]
  unfold referenceIsStale
  rw [hlock, Bool.true_and]
  rfl

/-- A saved HOLDOVER is over with its limit past and no lower record alive (R173). -/
theorem holdoverOver_restored {v : SavedLock} (h : v.lock = .holdover) (u : Bn24) :
    holdoverOver (restoreLock v u) = (passed u (paramsOf u).holdoverLimit v.holdStart && !liveLower u (ownStation u)) := by
  unfold holdoverOver
  simp only [restoreLock, setClock_clock, h, decide_true, Bool.true_and]
  rfl

/-- Settles O7: the load's end leaves the clock as it was (`exec_endsRunning`), and `clockStart_saved` resumes or restarts it, case by
case of the saved lock. -/
theorem runningResumesTheSavedLock : Obligations.RunningResumesTheSavedLock := by
  unfold Obligations.RunningResumesTheSavedLock
  intro s t c v n hs hc hload hexec hrun hsaved hnoted now new live leaves flags
  obtain ⟨w, ht, hclock, htime, hlockFlag, hholdFlag⟩ := exec_endsRunning hs hc hload hexec hrun
  obtain ⟨hrclock, hrtime, hrflags, -⟩ := readyToStart_keeps w
  let x := clockBegun (readyToStart w)
  have hstart : t.unit = clockStart (readyToStart w) := ht
  have honly : ClockOnly x t.unit := hstart ▸ clockStart_clockOnly (readyToStart w)
  have hxclock : x.clock = { s.unit.clock with beaconStart := some now, saved := none, noted := none } := by
    change { (readyToStart w).clock with beaconStart := some (readyToStart w).localTime, saved := none, noted := none } = _
    rw [hrclock, hrtime, hclock, htime]
  have hxtime : x.localTime = now := hrtime.trans htime
  have hnew : x.loader.inForce = new := by
    change _ = t.unit.loader.inForce
    rw [honly.frame]
  have hparams : paramsOf x = new.params := congrArg Configuration.params hnew
  have hown : ownStation x = new.station := congrArg Configuration.station hnew
  have hxflags (f : Flag) (hf : flagSet f w = flagSet f s.unit) : flagSet f x = flagSet f s.unit := by
    refine Eq.trans ?_ hf
    exact congrArg (fun m : Half => m.getLsbD f.bit) hrflags
  have hlock' := hxflags .lockEvent hlockFlag
  have hhold' := hxflags .holdover hholdFlag
  have hresumes : t.unit = if n = (new.station, new.rate) then resumeLock v x else leftState v.lock (enterAcquiring x) := by
    rw [hstart, clockStart_saved (by rw [hrclock, hclock]; exact hsaved) (by rw [hrclock, hclock]; exact hnoted)]
    have hpair : (ownStation (readyToStart w), (readyToStart w).loader.inForce.rate) = (new.station, new.rate) :=
      congrArg (fun k : Configuration => (k.station, k.rate)) hnew
    rw [hpair]
  have hlive (p : Peer) : peerStale x p = true ↔ ¬ live p := by
    rw [peerStale_iff, hxtime, hparams]
  have hlower : liveLower x (ownStation x) = true ↔ ∃ p ∈ s.unit.clock.peers, p.station < new.station ∧ live p := by
    rw [liveLower_iff, hxtime, hparams, hown, hxclock]
  have hleaves : leavesFlagged v.lock x = leaves := by
    unfold leavesFlagged
    rw [hparams]
  have restored : (restoreLock v x).clock = { x.clock with
      lock := v.lock, reference := v.reference, fine := v.fine, miss := v.miss, holdStart := v.holdStart, acqStart := none } := rfl
  refine ⟨honly.offset.trans (by rw [hxclock]), honly.peers.trans (by rw [hxclock]), honly.beaconStart.trans (by rw [hxclock]),
    honly.saved.trans (by rw [hxclock]), fun hne => ?_, fun heq hv hfresh => ?_, fun heq hv hpeers hstale => ?_,
    fun heq hv => ?_, fun heq hv hkeeps => ?_, fun heq hv hpast hnone => ?_, fun heq hv hnone => ?_, fun heq hv hlow => ?_⟩
  · rw [if_neg hne] at hresumes
    have hflags : flags leaves false := by
      constructor
      · rw [hresumes, flagSet_leftState]
        change (flagSet .lockEvent x || (true && leavesFlagged v.lock x)) = _
        rw [hlock', hleaves, Bool.true_and]
      · rw [hresumes, flagSet_leftState]
        change (flagSet .holdover x || (false && _)) = _
        rw [hhold', Bool.false_and]
    have hacquiring : t.unit.clock = (enterAcquiring x).clock := by rw [hresumes, leftState_clock]
    rw [hacquiring]
    exact ⟨rfl, rfl, rfl, rfl, congrArg some hxtime, hflags⟩
  · rw [if_pos heq, resumeLock_following hv, referenceIsStale_restored hv] at hresumes
    have hnot : (match peerOf x v.reference with
        | some p => peerStale x p
        | none => false) = false := by
      cases hfind : peerOf x v.reference with
      | none => rfl
      | some p =>
        have hstation : p.station = v.reference := by simpa using List.find?_some hfind
        have hin : p ∈ s.unit.clock.peers := by
          have := List.mem_of_find?_eq_some hfind
          rwa [hxclock] at this
        rw [← Bool.not_eq_true]
        exact fun hst => (hlive p).mp hst (hfresh p hin hstation)
    rw [hnot, if_neg (by simp)] at hresumes
    rw [hresumes]
    refine ⟨rfl, rfl, rfl, rfl, ?_, ?_⟩
    · rw [hresumes, Bool.or_false]; exact hlock'
    · rw [hresumes, Bool.or_false]; exact hhold'
  · rw [if_pos heq, resumeLock_following hv, referenceIsStale_restored hv] at hresumes
    obtain ⟨p, hp, hstation, hdead⟩ := hstale
    have hfind : peerOf x v.reference = some p := by
      rw [← hstation]
      exact peerOf_eq_some (by rw [hxclock]; exact hpeers.2) (by rw [hxclock]; exact hp)
    simp only [hfind, (hlive p).mpr hdead, if_true] at hresumes
    obtain ⟨heffect, heffectLock, heffectHold⟩ := enterHoldover_effect (restoreLock v x)
    rw [← hresumes] at heffect heffectLock heffectHold
    rw [heffect, restored]
    refine ⟨rfl, rfl, rfl, rfl, congrArg some hxtime, ?_, ?_⟩
    · rw [heffectLock]
      change (flagSet .lockEvent x || leavesFlagged v.lock x) = _
      rw [hlock', hleaves]
    · rw [heffectHold, Bool.or_true]
  · rw [if_pos heq] at hresumes
    simp only [resumeLock, hv] at hresumes
    rw [hresumes]
    exact ⟨rfl, rfl, congrArg some hxtime⟩
  · rw [if_pos heq] at hresumes
    simp only [resumeLock, hv, holdoverOver_restored hv] at hresumes
    have hnot : (passed x (paramsOf x).holdoverLimit v.holdStart && !liveLower x (ownStation x)) = false := by
      rw [Bool.and_eq_false_iff]
      rcases hkeeps with hkeeps | hkeeps
      · left
        unfold passed
        split
        next since hsince =>
          have := hkeeps since hsince
          rw [hxtime, hparams]
          simpa using this
        next => rfl
      · right
        rw [hlower.mpr hkeeps]
        rfl
    rw [hnot, if_neg (by simp)] at hresumes
    rw [hresumes]
    exact ⟨hv, rfl, rfl⟩
  · rw [if_pos heq] at hresumes
    simp only [resumeLock, hv, holdoverOver_restored hv] at hresumes
    obtain ⟨since, hsince, hpast⟩ := hpast
    have hover : passed x (paramsOf x).holdoverLimit v.holdStart = true := by
      rw [hsince, hparams]
      simp only [passed, hxtime]
      exact decide_eq_true hpast
    have hnolower : liveLower x (ownStation x) = false := by
      rw [← Bool.not_eq_true, hlower]
      rintro ⟨p, hp, hlt, hl⟩
      exact hnone p hp hlt hl
    rw [hover, hnolower, if_pos (by simp)] at hresumes
    rw [hresumes]
    exact ⟨rfl, rfl⟩
  · rw [if_pos heq] at hresumes
    have hnolower : liveLower x (ownStation x) = false := by
      rw [← Bool.not_eq_true, hlower]
      rintro ⟨p, hp, hlt, hl⟩
      exact hnone p hp hlt hl
    simp only [resumeLock, hv, hnolower, Bool.false_eq_true, if_false] at hresumes
    rw [hresumes]
    exact ⟨hv, rfl⟩
  · rw [if_pos heq] at hresumes
    simp only [resumeLock, hv, hlower.mpr hlow, if_true] at hresumes
    rw [hresumes]
    exact ⟨rfl, rfl, congrArg some hxtime⟩

end Sys2Proof.Machine
end

section
/-! The Maintenance Port: transfers, the byte pairs, the commands and the window (chapter 10, section 11.5). -/

open Sys2Proof Sys2Proof.Machine

namespace Sys2Proof.Machine

/-! ### Bytes written -/

theorem landsAt_of_writesAt {s : State} {a : Byte} (h : WritesAt s a) : landsAt a s.unit.maint = true := by
  obtain ⟨ht, ha⟩ | ht := h
  · simp [landsAt, ht, ha]
  · simp [landsAt, ht]

theorem keepOpen_writing {m : Maintenance} {b : Bool} (h : m.transfer = .writing b) : keepOpen m = m := by
  simp only [keepOpen, h]
  rw [← h]

/-- While a transfer of another address is open no byte lands (R194). -/
theorem landsAt_foreign {m : Maintenance} (h : m.transfer = .foreign) (a : Byte) : landsAt a m = false := by
  simp [landsAt, h]

theorem canRead_of {m : Maintenance} (h : m.transfer = .reading ∨ m.transfer = .idle) : canRead m = true := by
  obtain h | h := h <;> simp [canRead, h]

theorem exec_transferEnd {s : State} (h : Active s) :
    exec .maintTransferEnd s = .next { s with unit := setMaint endTransfer s.unit } := exec_act h rfl

/-! ### Settled: transfers and commands -/

/-- Settles O11: the port's answers and effects, by the state of the transfer. -/
theorem maintenanceTransfers : Obligations.MaintenanceTransfers := by
  unfold Obligations.MaintenanceTransfers
  refine ⟨fun s address direction b hs => ⟨?_, exec_transferEnd hs, fun ht n p c hc => ?_, fun ht => ?_, fun ht ha => ?_⟩,
    fun u address direction b n p => ⟨fun hheld => ⟨?_, fun c hc => ?_⟩, fun hheld => ⟨fun ha => ?_, fun ha => ?_,
      fun ht c hc => ?_, fun ht c hc => ?_⟩, fun c hc => ?_⟩⟩
  · refine (exec_act hs rfl).trans ?_
    cases direction <;> rfl
  · have hlands := landsAt_foreign ht
    have hreads : canRead s.unit.maint = false := by simp [canRead, ht]
    have hset {f : Maintenance → Maintenance} (hf : f s.unit.maint = s.unit.maint) : setMaint f s.unit = s.unit := by
      simp [setMaint, hf]
    simp only [List.mem_cons, List.not_mem_nil, or_false] at hc
    obtain rfl | rfl | rfl | rfl | rfl | rfl | rfl | rfl | rfl | rfl | rfl := hc
    · exact exec_idle hs rfl (hset (by simp only [ht]))
    · exact exec_idle hs rfl (hset (if_neg (by simp [hlands])))
    · exact exec_idle hs rfl (hset (if_neg (by simp [hlands])))
    · exact exec_idle hs rfl (if_neg (by simp [hlands]))
    · exact exec_idle hs rfl (hset (if_neg (by simp [hlands])))
    · refine exec_idle hs rfl (hset ?_)
      cases p <;> exact if_neg (by simp [hlands])
    · exact exec_idle hs rfl (hset (if_neg (by simp [hlands])))
    · exact exec_idle hs rfl (hset (if_neg (by simp [hlands])))
    · exact exec_idle hs rfl (hset (if_neg (by simp [hlands])))
    · exact exec_idle hs rfl (if_neg (by simp [hreads]))
    · exact exec_idle hs rfl (if_neg (by simp [hreads]))
  · refine (exec_act hs rfl).trans ?_
    simp only [setMaint, ht]
  · refine (exec_act hs rfl).trans ?_
    have hlands : landsAt s.unit.maint.address s.unit.maint = true := by simp [landsAt, ht]
    have outside (k : Byte) (hk : 12 ≤ k.toNat ∧ k.toNat ≤ 16) : decide (s.unit.maint.address = k) = false := by
      refine decide_eq_false fun h => ?_
      rw [h] at ha
      omega
    have hno : writeHasEffect s.unit.maint = false := by
      simp only [writeHasEffect, outside 0x0C (by decide), outside 0x0D (by decide), outside 0x0E (by decide),
        outside 0x0F (by decide), outside 0x10 (by decide), Bool.false_and, Bool.or_false]
    simp only [setMaint, hlands, hno, Bool.not_false, Bool.and_true, if_true]
    rfl
  · simp [portAnswer, hheld]
  · simp only [List.mem_cons, List.not_mem_nil, or_false] at hc
    obtain rfl | rfl | rfl | rfl | rfl | rfl | rfl | rfl | rfl := hc <;> simp [portAnswer, isWrittenByte, hheld]
  · simp [portAnswer, ownAddress, hheld, ha]
  · exact congrArg some (if_neg fun h => ha h.1)
  · have hanswer : writtenByteAnswer u.maint.transfer = some .acknowledge := by
      obtain h | ⟨b, h⟩ := ht <;> simp [writtenByteAnswer, h]
    simp only [List.mem_cons, List.not_mem_nil, or_false] at hc
    obtain rfl | rfl | rfl | rfl | rfl | rfl | rfl | rfl | rfl := hc <;> simp [portAnswer, isWrittenByte, hheld, hanswer]
  · simp only [List.mem_cons, List.not_mem_nil, or_false] at hc
    obtain rfl | rfl | rfl | rfl | rfl | rfl | rfl | rfl | rfl := hc <;>
      simp [portAnswer, isWrittenByte, hheld, writtenByteAnswer, ht]
  · simp only [List.mem_cons, List.not_mem_nil, or_false] at hc
    obtain rfl | rfl | rfl := hc <;> rfl

/-- ATTN stands exactly while a flag and its enable are both set (R200). -/
theorem attn_iff {u : Bn24} (h : u.resetHeld = false) :
    attn u = true ↔ ∃ f : Fin 16, u.maint.flags[f] = true ∧ u.maint.enables[f] = true := by
  have hbit (f : Fin 16) : (u.maint.flags &&& u.maint.enables)[f] = (u.maint.flags[f] && u.maint.enables[f]) := by simp
  have hzero : u.maint.flags &&& u.maint.enables = 0 ↔ ∀ f : Fin 16, (u.maint.flags &&& u.maint.enables)[f] = false :=
    ⟨fun hz f => by rw [hz]; simp, fun hall => BitVec.eq_of_getElem_eq fun i hi => by simpa using hall ⟨i, hi⟩⟩
  simp only [attn, h, Bool.not_false, Bool.true_and, decide_eq_true_eq, ne_eq, hzero, hbit, not_forall, Bool.not_eq_false,
    Bool.and_eq_true]

/-- Settles O12: both pairs, byte by byte of the open transfer. -/
theorem pairsAreWrittenInOneTransfer : Obligations.PairsAreWrittenInOneTransfer := by
  unfold Obligations.PairsAreWrittenInOneTransfer
  refine ⟨fun s first second hs => ⟨fun hw => ?_, fun hw hnone => ?_, attn_iff hs⟩,
    fun s first second hs => ⟨fun ht ha => ?_, fun hw hnone => ?_⟩⟩
  · have hlands := landsAt_of_writesAt hw
    let t : State := { s with unit.maint := { keepOpen (afterByte 0x0C s.unit.maint) with enablesFirst := some first } }
    have hopen : t.unit.maint.transfer = .writing true ∧ t.unit.maint.address = 0x0D
        ∧ t.unit.maint.enables = s.unit.maint.enables := by
      obtain ⟨ht, -⟩ | ht := hw <;> simp [t, keepOpen, afterByte, ht]
    obtain ⟨htransfer, haddress, henables⟩ := hopen
    have hlands' : landsAt 0x0D t.unit.maint = true := by simp [landsAt, htransfer, haddress]
    refine ⟨t, ?_, henables, rfl, ?_, _, exec_transferEnd hs, henables, rfl⟩
    · refine (exec_act hs rfl).trans ?_
      simp only [setMaint, hlands, if_true, t]
    · refine (exec_act (s := t) hs rfl).trans ?_
      simp only [setMaint, hlands', if_true]
      rfl
  · refine (exec_act hs rfl).trans ?_
    simp only [setMaint, landsAt_of_writesAt hw, if_true, hnone]
    simp only [afterByte, hnone]
    rfl
  · let t : State := { s with unit.maint.address := 0x0F, unit.maint.command := 0x03, unit.maint.maskWait := .first }
    let v : State := { t with unit.maint.address := 0x10, unit.maint.maskWait := .second first }
    have hcode : exec (.clearFlagsPending .code) s = .next t := by
      refine (exec_act hs rfl).trans ?_
      have hlands := landsAt_of_writesAt (.inl ⟨ht, ha⟩ : WritesAt s 0x0E)
      have hopen : (takeCommand 0x03 s.unit.maint.status s.unit.maint).transfer = .writing true := ht
      simp only [setMaint, hlands, if_true, keepOpen_writing hopen]
      rfl
    have hmask : exec (.clearFlagsPending (.mask first)) t = .next v := by
      refine (exec_act (s := t) hs rfl).trans ?_
      have hlands : landsAt 0x0F t.unit.maint = true := by simp [landsAt, t, ht]
      simp only [setMaint, hlands, if_true]
      rfl
    refine ⟨t, v, hcode, hcode, hmask, hmask, ?_, ?_⟩
    · refine (exec_act (s := v) hs rfl).trans ?_
      have hlands : landsAt 0x10 v.unit.maint = true := by simp [landsAt, v, t, ht]
      simp only [setMaint, hlands, if_true]
      rfl
    · rintro w (rfl | rfl)
      · exact ⟨_, exec_transferEnd hs, rfl, rfl, rfl⟩
      · exact ⟨_, exec_transferEnd hs, rfl, rfl, rfl⟩
  · refine (exec_act hs rfl).trans ?_
    simp only [setMaint, landsAt_of_writesAt hw, if_true, hnone]
    simp only [afterByte, hnone]
    rfl

/-- The unit after CLEAR COUNTERS (R197). -/
def countersCleared (u : Bn24) : Bn24 :=
  { u with maint.counters := Vector.replicate 27 0, maint.address := 0x0F, maint.command := 0x02, maint.status := .done
           maint.maskWait := .none }

theorem exec_clearCounters {s : State} (hs : Active s) (hw : WritesAt s 0x0E) :
    exec .clearCounters s = .next { s with unit := countersCleared s.unit } := by
  refine (exec_act hs rfl).trans ?_
  simp only [setMaint, landsAt_of_writesAt hw, if_true]
  rfl

/-- Settles O13: `countersCleared` reads no counter. -/
theorem clearCountersZeroesThemAll : Obligations.ClearCountersZeroesThemAll := by
  unfold Obligations.ClearCountersZeroesThemAll
  intro s hs hw
  refine ⟨exec_clearCounters hs hw, fun t ht => ?_⟩
  obtain rfl : { s with unit := countersCleared s.unit } = t := Host.Outcome.next.inj ((exec_clearCounters hs hw).symm.trans ht)
  have hzero (c : Counter) : counterOf c (countersCleared s.unit) = 0 := by simp [counterOf, countersCleared]
  refine ⟨fun c => ⟨hzero c, ?_⟩, fun c => ?_, rfl, rfl⟩
  · rw [counterOf_count, if_pos rfl]
    simp only [hzero]
    decide
  · exact exec_clearCounters (s := { s with unit := count c s.unit }) hs hw

/-! ### RELOAD -/

/-- The CLEARs that an accepted RELOAD hands to the link: of an ACTIVE grant or an unanswered offer (R102, R192). -/
def reloadClears : GrantSlot → List LinkMessage
  | .free => []
  | .offered o => [.clear o.id]
  | .active g => [.clear g.id]

/-- The arbiter's CLEAR for a RELOAD changes what the link still has to send alone. -/
theorem clearForReload_frame {u : Bn24} (h : LinkOk u) :
    ∃ sent waiting, clearForReload u = { u with controller.sending := sent, controller.waiting := waiting }
      ∧ sent.toList ++ waiting = linkMessages u ++ reloadClears u.arbiter.slot := by
  unfold clearForReload
  cases u.arbiter.slot with
  | free => exact ⟨_, _, rfl, (List.append_nil _).symm⟩
  | offered o => exact ⟨_, _, handLink_frame (.clear o.id) u, linkMessages_handLink _ u h.2⟩
  | active g => exact ⟨_, _, handLink_frame (.clear g.id) u, linkMessages_handLink _ u h.2⟩

/-- The clock that a RELOAD leaves: OFF with the lock state saved where the unit was RUNNING (R180, R192). -/
theorem clockOff_frame (u : Bn24) :
    ∃ c, clockOff u = setClock (fun _ => c) u ∧ c.offset = u.clock.offset ∧ c.peers = u.clock.peers
      ∧ (u.loader.run = .running → c.lock = .off ∧ c.beaconStart = none
          ∧ (c.reference = u.clock.reference ∨ c.reference = 0) ∧ c.saved = some (savedLock u.clock)
          ∧ c.noted = some (u.loader.inForce.station, u.loader.inForce.rate))
      ∧ (u.loader.run = .unconfigured → c = u.clock) := by
  unfold clockOff
  by_cases hrun : u.loader.run = .running
  · rw [if_pos (by simp [isRunning, hrun])]
    refine ⟨_, rfl, rfl, rfl, fun _ => ⟨rfl, rfl, ?_, rfl, rfl⟩, fun h => nomatch hrun.symm.trans h⟩
    cases Config.referenceShownWhileOff
    · exact .inr rfl
    · exact .inl rfl
  · rw [if_neg (by simp [isRunning, hrun])]
    exact ⟨_, rfl, rfl, rfl, fun h => absurd h hrun, fun _ => rfl⟩

/-- A RELOAD up to its load, in the order of R192. -/
theorem exec_reload {s : State} {pulses : Nat} (hs : Active s) (hw : WritesAt s 0x0E) (hrun : s.unit.loader.run ≠ .loading) :
    exec (.reload pulses) s = .next { s with unit := doReload pulses (setMaint (takeCommand 0x01 .done) s.unit) } := by
  refine (exec_act hs rfl).trans ?_
  rw [if_pos (landsAt_of_writesAt hw), if_neg hrun]

/-- What the load that a RELOAD begins makes of the unit (R184). -/
theorem beginLoad_eq (pulses : Nat) (u : Bn24) :
    (pulses ≤ 9 → beginLoad pulses u =
        { u with loader.run := .loading, loader.phase := .addressing, loader.working := .fresh })
    ∧ (9 < pulses → beginLoad pulses u =
        { u with loader.run := .unconfigured, loader.phase := .none, loader.working := .fresh
                 maint.flags := u.maint.flags ||| 0x0001 }) := by
  refine ⟨fun hp => ?_, fun hp => ?_⟩
  · have hfreed : esdaFreed pulses = true := decide_eq_true hp
    simp only [beginLoad, hfreed, if_true]
    rfl
  · have hheld : esdaFreed pulses = false := decide_eq_false (by simpa [Config.clearPulses] using hp)
    simp only [beginLoad, hheld, Bool.false_eq_true, if_false]
    rfl

/-- Settles O10: the refusals by `takeCommand`; an accepted RELOAD by the frames of its parts, and the load it begins. -/
theorem reloadAndUnknownCommands : Obligations.ReloadAndUnknownCommands := by
  unfold Obligations.ReloadAndUnknownCommands
  refine ⟨⟨fun s pulses hs hw hrun => ?_, fun s code hs hw h1 h2 h3 => ?_⟩, fun s pulses hs hw hrun hlink => ?_⟩
  · refine (exec_act hs rfl).trans ?_
    rw [if_pos (landsAt_of_writesAt hw), if_pos hrun]
    rfl
  · refine (exec_act hs rfl).trans ?_
    simp only [setMaint, landsAt_of_writesAt hw, h1, h2, h3, decide_false, Bool.or_false, Bool.not_false, Bool.and_true, if_true]
    rfl
  · obtain ⟨sent, waiting, hclear, hsent⟩ :=
      clearForReload_frame (u := setMaint (takeCommand 0x01 .done) s.unit) hlink
    obtain ⟨c, hclock, hoffset, hpeers, hrunning, hunconfigured⟩ :=
      clockOff_frame (portOff (emptyBlocks (clearForReload (setMaint (takeCommand 0x01 .done) s.unit))))
    rw [hclear] at hclock hoffset hpeers hrunning hunconfigured
    refine ⟨_, exec_reload hs hw hrun, ?_⟩
    unfold doReload
    rw [hclear, hclock]
    have links : sent.toList ++ waiting = linkMessages s.unit ++
        (match s.unit.arbiter.slot with | .free => [] | .offered o => [.clear o.id] | .active g => [.clear g.id]) := by
      rw [hsent]
      show linkMessages s.unit ++ reloadClears s.unit.arbiter.slot = _
      cases s.unit.arbiter.slot <;> rfl
    obtain ⟨hfreed, hheld⟩ := beginLoad_eq pulses (setClock (fun _ => c) (portOff (emptyBlocks
      { setMaint (takeCommand 0x01 .done) s.unit with controller.sending := sent, controller.waiting := waiting })))
    by_cases hp : pulses ≤ 9
    · rw [hfreed hp]
      exact ⟨rfl, rfl, links, rfl, rfl, rfl, rfl, rfl, rfl, rfl, rfl, rfl, rfl, rfl, rfl, hoffset, hpeers, hrunning,
        hunconfigured, rfl, rfl, rfl, rfl, rfl, rfl, rfl, rfl, fun _ => ⟨rfl, rfl, rfl⟩, fun h => absurd hp (by omega)⟩
    · rw [hheld (by omega)]
      exact ⟨rfl, rfl, links, rfl, rfl, rfl, rfl, rfl, rfl, rfl, rfl, rfl, rfl, rfl, rfl, hoffset, hpeers, hrunning,
        hunconfigured, rfl, rfl, rfl, rfl, rfl, rfl, rfl, rfl, fun h => absurd h hp, fun _ => ⟨rfl, rfl, rfl⟩⟩

/-! ### The window -/

theorem viewEntry_slot (u : Bn24) (n : SlotIx) : viewEntry u n.val = entryIn u n := by simp [viewEntry, slotOf, n.isLt]

/-- Two-byte fields lie at the addresses that section 11.5 gives them, and nowhere else. -/
theorem halfField_none {u : Bn24} {a : Nat} (h : a ≠ 0x0A ∧ a ≠ 0x0C ∧ ¬ (0x20 ≤ a ∧ a ≤ 0x54 ∧ a % 2 = 0)
    ∧ ¬ (0x60 ≤ a ∧ a ≤ 0xBF ∧ a % 4 = 0)) : halfField u a = none := by
  obtain ⟨hflags, henables, hcounter, hview⟩ := h
  rw [halfField, if_neg hflags, if_neg henables, if_neg hcounter, if_neg hview]

theorem secondField_none {u : Bn24} {a : Nat} (h : a - 1 ≠ 0x0A ∧ a - 1 ≠ 0x0C
    ∧ ¬ (0x20 ≤ a - 1 ∧ a - 1 ≤ 0x54 ∧ (a - 1) % 2 = 0) ∧ ¬ (0x60 ≤ a - 1 ∧ a - 1 ≤ 0xBF ∧ (a - 1) % 4 = 0)) :
    secondField u a = none := by
  rw [secondField]
  split
  · rfl
  · exact halfField_none h

theorem halfField_counter (u : Bn24) (i : Fin 27) : halfField u (0x20 + 2 * i.val) = some u.maint.counters[i] := by
  have hi := i.isLt
  rw [halfField, if_neg (by omega), if_neg (by omega), if_pos (by omega), show (0x20 + 2 * i.val - 0x20) / 2 = i.val by omega]
  simp [List.getD_eq_getElem?_getD]

theorem halfField_view (u : Bn24) (n : SlotIx) :
    halfField u (0x60 + 4 * n.val) = some ((entryIn u n).elim 0 (fun e => e.key.vehicle)) := by
  have hn := n.isLt
  rw [halfField, if_neg (by omega), if_neg (by omega), if_neg (by omega), if_pos (by omega),
    show (0x60 + 4 * n.val - 0x60) / 4 = n.val by omega, viewEntry_slot]
  cases entryIn u n <;> rfl

theorem singleByte_trip (u : Bn24) (n : SlotIx) :
    singleByte u (0x62 + 4 * n.val) = (entryIn u n).elim 0 (fun e => e.key.trip) := by
  have hn := n.isLt
  simp only [singleByte]
  iterate 11 rw [if_neg (by omega)]
  rw [if_pos (by omega), show (0x62 + 4 * n.val - 0x60) / 4 = n.val by omega, viewEntry_slot]
  cases entryIn u n <;> rfl

theorem singleByte_combined (u : Bn24) (n : SlotIx) :
    singleByte u (0x63 + 4 * n.val) = (entryIn u n).elim 0 combinedByte := by
  have hn := n.isLt
  simp only [singleByte]
  iterate 12 rw [if_neg (by omega)]
  rw [if_pos (by omega), show (0x63 + 4 * n.val - 0x60) / 4 = n.val by omega, viewEntry_slot]
  cases entryIn u n <;> rfl

/-- An address without a field reads 0 (R194). -/
theorem singleByte_none (u : Bn24) {a : Nat}
    (h : a = 0x09 ∨ a = 0x0F ∨ a = 0x10 ∨ (0x12 ≤ a ∧ a ≤ 0x1F) ∨ (0x56 ≤ a ∧ a ≤ 0x5F)
    ∨ 0xC0 ≤ a) : singleByte u a = 0 := by
  simp only [singleByte]
  iterate 13 rw [if_neg (by omega)]

/-- A one-byte field is read as it stands (R195, assumption 9). -/
theorem exec_readSingle {s : State} (hs : Active s) (ht : s.unit.maint.transfer = .reading ∨ s.unit.maint.transfer = .idle)
    (hsecond : secondField s.unit s.unit.maint.address.toNat = none) (hhalf : halfField s.unit s.unit.maint.address.toNat = none) :
    exec .readLatchFirstByte s =
      .next { s with unit.maint.readData := some (singleByte s.unit s.unit.maint.address.toNat)
                     unit.maint.address := s.unit.maint.address + 1 } := by
  refine (exec_act hs rfl).trans ?_
  simp only [canRead_of ht, hsecond, Option.isNone_none, Bool.and_true, if_true, readFirst, hhalf]
  rfl

/-- A first byte is read through the latch (R195). -/
theorem exec_readFirst {s : State} {v : Half} (hs : Active s)
    (ht : s.unit.maint.transfer = .reading ∨ s.unit.maint.transfer = .idle)
    (hsecond : secondField s.unit s.unit.maint.address.toNat = none)
    (hhalf : halfField s.unit s.unit.maint.address.toNat = some v) :
    exec .readLatchFirstByte s =
      .next { s with unit.maint.readData := some (v.extractLsb' 8 8)
                     unit.maint.latch := some { field := s.unit.maint.address, value := v }
                     unit.maint.address := s.unit.maint.address + 1 } := by
  refine (exec_act hs rfl).trans ?_
  simp only [canRead_of ht, hsecond, Option.isNone_none, Bool.and_true, if_true, readFirst, hhalf]
  rfl

/-- A second byte is read from the latch that holds its field (R195). -/
theorem exec_readSecond {s : State} {v : Half} (hs : Active s)
    (ht : s.unit.maint.transfer = .reading ∨ s.unit.maint.transfer = .idle)
    (hsecond : secondField s.unit s.unit.maint.address.toNat = some v) :
    exec .readLatchSecondByte s = .next { s with unit := readSecond v s.unit } := by
  refine (exec_act hs rfl).trans ?_
  simp only [canRead_of ht, if_true, hsecond]

theorem readSecond_latched {u : Bn24} (v held : Half)
    (h : u.maint.latch = some { field := u.maint.address - 1, value := held }) :
    readSecond v u = { u with maint.readData := some (held.extractLsb' 0 8), maint.latch := none
                              maint.address := u.maint.address + 1 } := by
  simp only [readSecond, h, if_true]
  rfl

/-- A latch that holds another field stays as it is (R195). -/
theorem readSecond_live {u : Bn24} (v : Half) (h : ∀ l ∈ u.maint.latch, l.field ≠ u.maint.address - 1) :
    readSecond v u = { u with maint.readData := some (v.extractLsb' 0 8), maint.address := u.maint.address + 1 } := by
  unfold readSecond
  cases hl : u.maint.latch with
  | none => rfl
  | some l =>
    rw [hl] at h
    exact if_neg (h l rfl)

/-- Settles O14: the four kinds of field by `halfField`; their second bytes by `secondField`. -/
theorem twoByteFieldsAreReadThroughTheLatch : Obligations.TwoByteFieldsAreReadThroughTheLatch := by
  unfold Obligations.TwoByteFieldsAreReadThroughTheLatch
  intro s a v hs ht hfield
  have hhalf : halfField s.unit a = some v := by
    obtain ⟨rfl, rfl⟩ | ⟨rfl, rfl⟩ | ⟨i, rfl, rfl⟩ | ⟨n, rfl, rfl⟩ := hfield
    · rfl
    · rfl
    · exact halfField_counter s.unit i
    · exact halfField_view s.unit n
  have hfirst : secondField s.unit a = none := by
    obtain ⟨rfl, -⟩ | ⟨rfl, -⟩ | ⟨i, rfl, -⟩ | ⟨n, rfl, -⟩ := hfield <;> exact secondField_none (by omega)
  refine ⟨fun ha => ?_, fun ha => ?_⟩
  · subst ha
    exact exec_readFirst hs ht hfirst hhalf
  · have hsecond : secondField s.unit s.unit.maint.address.toNat = some v := by rw [ha]; exact hhalf
    refine ⟨fun held hlatch => ?_, fun hlatch => ?_⟩
    · rw [exec_readSecond hs ht hsecond, readSecond_latched v held hlatch]
    · rw [exec_readSecond hs ht hsecond, readSecond_live v hlatch]

/-- The fields of the combined byte, read back (R209). -/
theorem combined_fields : ∀ (c : Bool) (state : BitVec 3) (grade : BitVec 4),
    (BitVec.ofBool c ++ state ++ grade).toNat % 16 = grade.toNat ∧ (128 ≤ (BitVec.ofBool c ++ state ++ grade).toNat ↔ c = true)
      ∧ (BitVec.ofBool c ++ state ++ grade).toNat / 16 % 8 = state.toNat := by decide

theorem serviceCode_toNat (e : Entry) : (serviceCode e).toNat =
    (let part := e.decision.elim 0 (fun d => d.isPartial.toNat)
     match e.service with | .waiting => 0 | .armed => 1 + part | .offered => 3 + part | .granted => 5 + part | .riding => 7) := by
  have hpart : e.decision.elim 0 (fun d => d.isPartial.toNat) = (shownPartial e).toNat := by
    unfold shownPartial
    cases e.decision <;> rfl
  simp only [hpart, serviceCode]
  cases e.service <;> cases shownPartial e <;> rfl

theorem occupancy_eq (u : Bn24) : occupancy u = (List.finRange 24).countP (fun i => (entryIn u i).isSome) := by
  unfold occupancy
  congr 1
  funext i
  simp [slotEmpty]

/-- Settles O15: each byte of the window by the field at its address. -/
theorem windowBytes : Obligations.WindowBytes := by
  unfold Obligations.WindowBytes
  refine ⟨fun s n hs ht => ⟨fun e he hok => ⟨fun ha => ?_, fun ha => ?_, fun ha => ?_⟩, fun hempty k ha => ⟨fun hk => ?_,
    fun hk hlatch => ?_⟩⟩,
    fun s hs ht a v hv ha => ?_⟩
  · have hhalf := halfField_view s.unit n
    rw [← ha, he] at hhalf
    exact ⟨_, exec_readFirst hs ht (by rw [ha]; exact secondField_none (by omega)) hhalf, rfl, rfl⟩
  · rw [exec_readSingle hs ht (by rw [ha]; exact secondField_none (by omega))
        (by rw [ha]; exact halfField_none (by omega)), ha,
      singleByte_trip, he]
    rfl
  · refine ⟨_, exec_readSingle hs ht (by rw [ha]; exact secondField_none (by omega))
        (by rw [ha]; exact halfField_none (by omega)), ?_⟩
    rw [ha, singleByte_combined, he]
    obtain ⟨hgrade, hconfirmed, hstate⟩ :=
      combined_fields (decide (e.confirmation = .confirmed)) (serviceCode e) (BitVec.ofNat 4 e.grade)
    refine ⟨hgrade.trans ?_, hconfirmed.trans decide_eq_true_iff, hstate.trans (serviceCode_toNat e)⟩
    rw [BitVec.toNat_ofNat]
    exact Nat.mod_eq_of_lt (by have := hok.2.2.2.1; omega)
  · have hplace : k.val = 0 ∨ k.val = 2 ∨ k.val = 3 := by
      have : k.val ≠ 1 := fun h => hk (Fin.ext h)
      omega
    obtain hplace | hplace | hplace := hplace <;> rw [hplace] at ha
    · have hhalf := halfField_view s.unit n
      rw [← Nat.add_zero (0x60 + 4 * n.val), ← ha, hempty] at hhalf
      exact ⟨_, exec_readFirst hs ht (by rw [ha]; exact secondField_none (by omega)) hhalf, rfl⟩
    · refine ⟨_, exec_readSingle hs ht (by rw [ha]; exact secondField_none (by omega))
        (by rw [ha]; exact halfField_none (by omega)), ?_⟩
      rw [ha, show 0x60 + 4 * n.val + 2 = 0x62 + 4 * n.val by omega, singleByte_trip, hempty]
      rfl
    · refine ⟨_, exec_readSingle hs ht (by rw [ha]; exact secondField_none (by omega))
        (by rw [ha]; exact halfField_none (by omega)), ?_⟩
      rw [ha, show 0x60 + 4 * n.val + 3 = 0x63 + 4 * n.val by omega, singleByte_combined, hempty]
      rfl
  · have hsecond : secondField s.unit s.unit.maint.address.toNat = some 0 := by
      have hhalf := halfField_view s.unit n
      rw [hempty] at hhalf
      rw [ha, hk]
      exact hhalf
    rw [exec_readSecond hs ht hsecond, readSecond_live 0 hlatch]
    rfl
  · have hplace : a ≤ 0x09 ∨ (0x0E ≤ a ∧ a ≤ 0x1F) ∨ (0x56 ≤ a ∧ a ≤ 0x5F) ∨ 0xC0 ≤ a := by omega
    rw [exec_readSingle hs ht (by rw [ha]; exact secondField_none (by omega))
        (by rw [ha]; exact halfField_none (by omega)), ha]
    have hbyte : singleByte s.unit a = BitVec.ofNat 8 v := by
      obtain ⟨rfl, rfl⟩ | ⟨rfl, rfl⟩ | ⟨rfl, rfl⟩ | ⟨rfl, -, rfl⟩ | ⟨rfl, rfl⟩ | ⟨rfl, rfl⟩ | ⟨rfl, rfl⟩
        | ⟨rfl, rfl⟩ | ⟨rfl, rfl⟩ | ⟨rfl, rfl⟩ | ⟨rfl, rfl⟩ | ⟨hnone, rfl⟩ := hv
      · rfl
      · show s.unit.loader.run.code = _
        cases s.unit.loader.run <;> rfl
      · show s.unit.clock.lock.code = _
        cases s.unit.clock.lock <;> rfl
      · rfl
      · show s.unit.port.state.code = _
        cases s.unit.port.state <;> rfl
      · show s.unit.arbiter.slot.code = _
        cases s.unit.arbiter.slot <;> rfl
      · exact congrArg (BitVec.ofNat 8) (occupancy_eq s.unit)
      · show s.unit.loader.siteCode.extractLsb' 8 8 = _
        simp [BitVec.extractLsb', Nat.shiftRight_eq_div_pow]
      · show s.unit.loader.siteCode.extractLsb' 0 8 = _
        apply BitVec.eq_of_toNat_eq
        simp
      · show s.unit.maint.command = _
        simp
      · show s.unit.maint.status.code = _
        cases s.unit.maint.status <;> rfl
      · exact singleByte_none _ hnone
    rw [hbyte]

end Sys2Proof.Machine
end

section
/-! The Detection Receiver and the receiver of the controller link: their common framing of bytes, the tests of a detection message,
and what the transmitter sends (sections 4.7, 5.1 to 5.3, 11.1, 11.2). -/

open Sys2Proof Sys2Proof.Machine

namespace Sys2Proof.Machine

/-! ### The framing that both receivers share -/

/-- A receiver: its framing state, its counter, what it makes of a byte and of a whole message, and its commands. -/
structure ReceiverLine where
  framing : Bn24 → Framing
  set : Framing → Bn24 → Bn24
  bad : Counter
  byte : Byte → Bn24 → Bn24
  whole : List Byte → Byte → Bn24 → Bn24
  start : Instr
  gap : Instr
  error : Instr
  lengthDrop : Byte → Instr
  received : List Byte → Option Byte → Instr

namespace ReceiverLine

/-- A message dropped or abandoned, counted once (R104, R106). -/
def drop (L : ReceiverLine) (u : Bn24) : Bn24 := count L.bad (L.set .hunting u)

/-- What a byte comes to, once a gap before it has been seen (R104). -/
def frame (L : ReceiverLine) (b : Byte) (u : Bn24) : Bn24 :=
  match nextByte u.localTime b (L.framing u) with
  | .goesOn f => L.set f u
  | .dropped => L.drop u
  | .whole payload check => L.whole payload check u

/-- The receiver's commands are the framing of sections 5.1 and 4.7, and touch neither the run state nor the hard reset. -/
structure Frames (L : ReceiverLine) : Prop where
  set_same : ∀ u, L.set (L.framing u) u = u
  set_loader : ∀ f u, (L.set f u).loader = u.loader
  set_reset : ∀ f u, (L.set f u).resetHeld = u.resetHeld
  drop_hunting : ∀ u, L.framing (L.drop u) = .hunting
  byte_eq : ∀ b u, L.byte b u = L.frame b (if gapPassed u.localTime (L.framing u) then L.drop u else u)
  start_effect : ∀ u, effectOf L.start u = if u.resetHeld then u else if isRunning u then L.byte 0xD2 u else u
  gap_effect : ∀ u, effectOf L.gap u = if u.resetHeld then u else if isRunning u && isCollecting (L.framing u) then L.drop u else u
  error_effect : ∀ u, effectOf L.error u = if u.resetHeld then u else if isRunning u && isCollecting (L.framing u) then L.drop u else u
  lengthDrop_effect : ∀ b u, effectOf (L.lengthDrop b) u =
    if u.resetHeld then u else if isRunning u && awaitsLength (L.framing u) && lengthOutside b then L.byte b u else u
  whole_effect : ∀ p k u, effectOf (L.received p (some k)) u = if u.resetHeld then u else if isRunning u then L.whole p k u else u
  bytes_effect : ∀ p u, effectOf (L.received p none) u =
    if u.resetHeld then u else if isRunning u then p.foldl (fun v b => L.byte b v) u else u
  received_keeps : ∀ p k, writesLoader (L.received p k) = false ∧ L.received p k ≠ .hardReset

variable {L : ReceiverLine} (h : L.Frames)

include h in
theorem byte_hunting {u : Bn24} (hf : L.framing u = .hunting) (b : Byte) :
    L.byte b u = L.set (if b = 0xD2 then .collecting { length := none, bytes := [], lastEnd := u.localTime } else .hunting) u := by
  rw [h.byte_eq, hf, if_neg (by simp [gapPassed, idleFor]), frame, hf]
  rfl

include h in
theorem byte_collecting {u : Bn24} {m : Collected} (hf : L.framing u = .collecting m) (hgap : age u.localTime m.lastEnd < 2)
    (b : Byte) : L.byte b u =
      match takeByte u.localTime b m with
      | .goesOn f => L.set f u
      | .dropped => L.drop u
      | .whole payload check => L.whole payload check u := by
  rw [h.byte_eq, hf, if_neg (by simp [gapPassed, idleFor]; omega), frame, hf]
  rfl

include h in
/-- After a gap the message is abandoned, and the byte is taken while hunting (R106). -/
theorem byte_afterGap {u : Bn24} {m : Collected} (hf : L.framing u = .collecting m) (hgap : 2 ≤ age u.localTime m.lastEnd)
    (b : Byte) : L.byte b u = L.byte b (L.drop u) := by
  rw [h.byte_eq, hf, if_pos (by simp [gapPassed, idleFor, hgap]), h.byte_eq b (L.drop u), h.drop_hunting,
    if_neg (by simp [gapPassed, idleFor])]

include h in
/-- A byte completed on the line while RUNNING. -/
theorem exec_byte {s : State} (hs : Running s) (b : Byte) :
    exec (L.received [b] none) s = .next { s with unit := L.byte b s.unit } := by
  refine (exec_act hs.1 (h.bytes_effect _ _)).trans ?_
  rw [if_pos (by simp [isRunning, hs.2])]
  rfl

include h in
theorem exec_startByte {s : State} (hs : Running s) : exec L.start s = exec (L.received [0xD2] none) s := by
  rw [exec_byte h hs]
  refine (exec_act hs.1 (h.start_effect _)).trans ?_
  rw [if_pos (by simp [isRunning, hs.2])]

include h in
/-- Within a message a gap and a character error abandon it (R103, R106). -/
theorem exec_abandon {s : State} {m : Collected} (hs : Running s) (hf : L.framing s.unit = .collecting m) :
    exec L.gap s = .next { s with unit := L.drop s.unit } ∧ exec L.error s = .next { s with unit := L.drop s.unit } := by
  have hin : (isRunning s.unit && isCollecting (L.framing s.unit)) = true := by simp [isRunning, hs.2, hf, isCollecting]
  exact ⟨(exec_act hs.1 (h.gap_effect _)).trans (by rw [if_pos hin]), (exec_act hs.1 (h.error_effect _)).trans (by rw [if_pos hin])⟩

include h in
theorem set_of_framing {u : Bn24} {f : Framing} (hf : L.framing u = f) : L.set f u = u := by rw [← hf, h.set_same]

theorem lengthOutside_iff (b : Byte) : lengthOutside b = true ↔ b.toNat = 0 ∨ 16 < b.toNat := by simp [lengthOutside]

/-- A receiver frames messages byte by byte as R103 to R106 say. -/
theorem framesBytes {L : ReceiverLine} (h : L.Frames) :
    FramesBytes L.framing L.set L.bad L.start L.gap L.error L.lengthDrop L.received := by
  intro s b m hs
  dsimp only
  refine ⟨fun hrun => ⟨fun hf => ⟨?_, ?_, fun hb => ?_, ?_, ?_, ?_⟩, fun hf => ⟨?_, ?_, ?_, fun hm hb => ?_, fun hm => ?_,
    fun hgap => ?_, fun hgap => ⟨fun hm hb => ?_, fun hm hlow hhigh => ?_, fun n hm => ⟨fun hmore => ?_, fun hall => ?_⟩⟩⟩,
    fun bytes t ht => ?_⟩, fun hrun bytes check c hc => ?_⟩
  · rw [exec_startByte h ⟨hs, hrun⟩, exec_byte h ⟨hs, hrun⟩, byte_hunting h hf, if_pos rfl]
  · rw [exec_byte h ⟨hs, hrun⟩, byte_hunting h hf, if_pos rfl]
  · rw [exec_byte h ⟨hs, hrun⟩, byte_hunting h hf, if_neg hb, set_of_framing h hf]
  · exact exec_idle hs (h.gap_effect _) (if_neg (by simp [hf, isCollecting]))
  · exact exec_idle hs (h.error_effect _) (if_neg (by simp [hf, isCollecting]))
  · exact exec_idle hs (h.lengthDrop_effect _ _) (if_neg (by simp [hf, awaitsLength]))
  · exact (exec_abandon h ⟨hs, hrun⟩ hf).1
  · exact (exec_abandon h ⟨hs, hrun⟩ hf).2
  · exact exec_startByte h ⟨hs, hrun⟩
  · rw [exec_byte h ⟨hs, hrun⟩]
    refine (exec_act hs (h.lengthDrop_effect _ _)).trans ?_
    rw [if_pos (by simp [isRunning, hrun, hf, awaitsLength, hm, (lengthOutside_iff b).mpr hb])]
  · refine exec_idle hs (h.lengthDrop_effect _ _) (if_neg ?_)
    rw [hf]
    obtain hm | ⟨hlow, hhigh⟩ := hm
    · simp [awaitsLength, hm]
    · have hout : lengthOutside b ≠ true := fun ho => by have := (lengthOutside_iff b).mp ho; omega
      simp [hout]
  · have hrun' : Running { s with unit := L.drop s.unit } :=
      ⟨(h.set_reset .hunting s.unit).trans hs, (congrArg Loader.run (h.set_loader .hunting s.unit)).trans hrun⟩
    rw [exec_byte h ⟨hs, hrun⟩, byte_afterGap h hf hgap]
    exact (exec_byte h hrun' b).symm
  · rw [exec_byte h ⟨hs, hrun⟩, byte_collecting h hf hgap]
    simp only [takeByte, hm, (lengthOutside_iff b).mpr hb, if_true]
    rfl
  · have hin : lengthOutside b ≠ true := fun ho => by have := (lengthOutside_iff b).mp ho; omega
    rw [exec_byte h ⟨hs, hrun⟩, byte_collecting h hf hgap]
    simp only [takeByte, hm, if_neg hin]
  · rw [exec_byte h ⟨hs, hrun⟩, byte_collecting h hf hgap]
    simp only [takeByte, hm, if_pos hmore]
  · rw [exec_byte h ⟨hs, hrun⟩, byte_collecting h hf hgap]
    simp only [takeByte, hm, if_neg (show ¬ m.bytes.length < n.toNat by omega)]
    refine ((exec_act hs (h.whole_effect _ _ _)).trans ?_).symm
    rw [if_pos (by simp [isRunning, hrun])]
  · obtain ⟨hwrites, hreset⟩ := h.received_keeps [b] none
    have hactive := exec_active ht hreset hs
    have hloader := exec_loader ht hreset hwrites
    have htu : { s with unit := L.byte b s.unit } = t := Host.Outcome.next.inj ((exec_byte h ⟨hs, hrun⟩ b).symm.trans ht)
    have hrun' : isRunning t.unit = true := by simp [isRunning, hloader, hrun]
    rw [(exec_act hs (h.bytes_effect _ _)).trans (by rw [if_pos (by simp [isRunning, hrun])]),
      (exec_act hactive (h.bytes_effect _ _)).trans (by rw [if_pos hrun'])]
    subst htu
    rfl
  · have hno : isRunning s.unit = false := by simp [isRunning, hrun]
    simp only [List.mem_cons, List.not_mem_nil, or_false] at hc
    obtain rfl | rfl | rfl | rfl | rfl := hc
    · exact exec_idle hs (h.start_effect _) (by simp [hno])
    · exact exec_idle hs (h.gap_effect _) (by simp [hno])
    · exact exec_idle hs (h.error_effect _) (by simp [hno])
    · exact exec_idle hs (h.lengthDrop_effect _ _) (by simp [hno])
    · cases check with
      | none => exact exec_idle hs (h.bytes_effect _ _) (by simp [hno])
      | some k => exact exec_idle hs (h.whole_effect _ _ _) (by simp [hno])

end ReceiverLine

/-- The Detection Receiver (chapter 5). -/
def detectionLine : ReceiverLine where
  framing u := u.detection.framing
  set := setDetFraming
  bad := .detBad
  byte := detectionByte
  whole := receiveDetection
  start := .detStartByte
  gap := .detGapAbandon
  error := .detCharacterError
  lengthDrop := .detLengthDrop
  received := .detMessageReceived

/-- The receiver of the Controller Port (section 4.7). -/
def controllerLine : ReceiverLine where
  framing u := u.controller.framing
  set := setLinkFraming
  bad := .linkBad
  byte := linkByte
  whole := receiveController
  start := .linkStartByte
  gap := .linkGapAbandon
  error := .linkCharacterError
  lengthDrop := .linkLengthDrop
  received := .controllerMessageReceived

theorem detectionLine_frames : detectionLine.Frames where
  set_same _ := rfl
  set_loader _ _ := rfl
  set_reset _ _ := rfl
  drop_hunting _ := rfl
  byte_eq _ _ := rfl
  start_effect _ := rfl
  gap_effect _ := rfl
  error_effect _ := rfl
  lengthDrop_effect _ _ := rfl
  whole_effect _ _ _ := rfl
  bytes_effect _ _ := rfl
  received_keeps _ _ := ⟨rfl, nofun⟩

theorem controllerLine_frames : controllerLine.Frames where
  set_same _ := rfl
  set_loader _ _ := rfl
  set_reset _ _ := rfl
  drop_hunting _ := rfl
  byte_eq _ _ := rfl
  start_effect _ := rfl
  gap_effect _ := rfl
  error_effect _ := rfl
  lengthDrop_effect _ _ := rfl
  whole_effect _ _ _ := rfl
  bytes_effect _ _ := rfl
  received_keeps _ _ := ⟨rfl, nofun⟩

/-- A step on an empty queue runs the timer's command that is due (assumption 2). -/
theorem step_timer {u : Bn24} {c : Instr} (h : u.resetHeld = false) (hq : queuedCommand u = none) (ht : timerCommand u = some c) :
    step { pending := [], unit := u } = exec c { pending := [], unit := u } := by
  have hown : ownCommand u = some c := by simp [ownCommand, h, hq, ht]
  simp [step, idle, hown]

/-- Settles O16: both receivers are `ReceiverLine`s; the idle line by the order of `timerCommand`. -/
theorem receiversFrameMessages : Obligations.ReceiversFrameMessages := by
  unfold Obligations.ReceiversFrameMessages
  refine ⟨detectionLine.framesBytes detectionLine_frames, controllerLine.framesBytes controllerLine_frames,
    fun u m hs hq hage => ?_⟩
  have hrun : u.loader.run = .running := hs.2
  refine ⟨fun hf => ?_, fun hhunt hf => ?_⟩
  · have hdue : detectionGapDue u = true := by simp [detectionGapDue, isRunning, idleLine, idleFor, hf, hrun, hage]
    rw [step_timer hs.1 hq (c := .detGapAbandon) (by simp [timerCommand, commandIf, hdue])]
    exact (ReceiverLine.exec_abandon detectionLine_frames hs hf).1
  · have hnot : detectionGapDue u = false := by simp [detectionGapDue, idleLine, idleFor, hhunt]
    have hdue : linkGapDue u = true := by simp [linkGapDue, isRunning, idleLine, idleFor, hf, hrun, hage]
    rw [step_timer hs.1 hq (c := .linkGapAbandon) (by simp [timerCommand, commandIf, hnot, hdue])]
    exact (ReceiverLine.exec_abandon controllerLine_frames hs hf).1

/-! ### Detection messages -/

theorem isRunning_of {u : Bn24} (h : u.loader.run = .running) : isRunning u = true := by simp [isRunning, h]

/-- In RUNNING requests reach the table (R6). -/
theorem sendTable_running {u : Bn24} (h : u.loader.run = .running) (rs : List TableRequest) :
    sendTable rs u = { u with table.requests := u.table.requests ++ rs } := if_pos (isRunning_of h)

theorem exec_detMessage {s : State} (hs : Running s) (payload : List Byte) (check : Byte) :
    exec (.detMessageReceived payload (some check)) s = .next { s with unit := receiveDetection payload check s.unit } := by
  refine (exec_act hs.1 (detectionLine_frames.whole_effect _ _ _)).trans ?_
  rw [if_pos (by simp [isRunning, hs.2])]
  rfl

/-- A message that fails a test is counted under it and dropped (R107). -/
theorem exec_detMessage_drop {s : State} (hs : Running s) {payload : List Byte} {check : Byte} {c : Counter}
    (hp : parseDetection s.unit payload check = .drop c) :
    exec (.detMessageReceived payload (some check)) s = .next { s with unit := count c { s.unit with detection.framing := .hunting } } := by
  rw [exec_detMessage hs, receiveDetection, hp]
  rfl

/-- A message that passes enters the inbox, if there is room (R113). -/
theorem exec_detMessage_good {s : State} (hs : Running s) {payload : List Byte} {check : Byte} {m : DetectionMessage}
    (hp : parseDetection s.unit payload check = .good m) :
    exec (.detMessageReceived payload (some check)) s =
      if s.unit.detection.inbox.length < 8 then
        .next { s with unit.detection.framing := .hunting, unit.detection.inbox := s.unit.detection.inbox ++ [m]
                       unit.table.requests := s.unit.table.requests ++ [.detection] }
      else .next { s with unit := flag .inboxOverflow (count .detOverflow { s.unit with detection.framing := .hunting }) } := by
  rw [exec_detMessage hs, receiveDetection, hp]
  simp only [offerInbox]
  by_cases hroom : s.unit.detection.inbox.length < 8
  · rw [if_pos hroom, if_pos (show (setDetFraming .hunting s.unit).detection.inbox.length < Config.inboxCapacity from hroom),
      sendTable_running]
    · rfl
    · exact hs.2
  · rw [if_neg hroom, if_neg (show ¬ (setDetFraming .hunting s.unit).detection.inbox.length < Config.inboxCapacity from hroom)]
    rfl

/-- The tests of a CHECK-IN of the right length (R107 to R110). -/
theorem parseDetection_checkIn (u : Bn24) (p v1 v0 trip cls l1 l0 s1 s0 fl check : Byte) :
    parseDetection u [0x31, p, v1, v0, trip, cls, l1, l0, s1, s0, fl] check =
      if sumOk [0x31, p, v1, v0, trip, cls, l1, l0, s1, s0, fl] check = false then .drop .detBad
      else if badVehicle (v1 ++ v0) then .drop .detBad
      else if h : cls.toNat < 4 then
        match pointPasses u .checkIn p with
        | none => .drop .detUnknownPoint
        | some (q, r) =>
          .good (.checkIn q { vehicle := v1 ++ v0, trip := trip } ⟨cls.toNat, h⟩ (clampLateness (l1 ++ l0 : Half).toInt)
            (clampSpeed u r.approach (s1 ++ s0 : Half).toNat) (fl.getLsbD 0))
      else .drop .detBad := rfl

/-- The tests of a CHECK-OUT of the right length (R107 to R110). -/
theorem parseDetection_checkOut (u : Bn24) (p v1 v0 trip cls l1 l0 check : Byte) :
    parseDetection u [0x32, p, v1, v0, trip, cls, l1, l0] check =
      if sumOk [0x32, p, v1, v0, trip, cls, l1, l0] check = false then .drop .detBad
      else if badVehicle (v1 ++ v0) then .drop .detBad
      else if h : cls.toNat < 4 then
        match pointPasses u .checkOut p with
        | none => .drop .detUnknownPoint
        | some (q, _) =>
          .good (.checkOut q { vehicle := v1 ++ v0, trip := trip } ⟨cls.toNat, h⟩ (clampLateness (l1 ++ l0 : Half).toInt))
      else .drop .detBad := rfl

/-- The tests of a CANCEL of the right length (R107 to R109). -/
theorem parseDetection_cancel (u : Bn24) (v1 v0 trip check : Byte) :
    parseDetection u [0x33, v1, v0, trip] check =
      if sumOk [0x33, v1, v0, trip] check = false then .drop .detBad
      else if badVehicle (v1 ++ v0) then .drop .detBad
      else .good (.cancel { vehicle := v1 ++ v0, trip := trip }) := rfl

theorem sumOk_passes {payload : List Byte} {check : Byte} (h : SumsToZero payload check) : ¬ sumOk payload check = false := by
  simp [(sumOk_iff payload check).mpr h]

theorem badVehicle_iff (v : Half) : badVehicle v = true ↔ v = 0 ∨ v = 0xFFFF := by simp [badVehicle]

theorem byteAt_head {payload : List Byte} {k : Byte} (h : payload.head? = some k) : byteAt payload 0 = k := by
  obtain ⟨rest, rfl⟩ := List.head?_eq_some_iff.mp h
  rfl

/-- A message that no kind's tests can pass is dropped under DET_BAD (R107, R108). -/
theorem parseDetection_malformed (u : Bn24) (check : Byte) {payload : List Byte}
    (h : (∀ k ∈ payload.head?, k ≠ 0x31 ∧ k ≠ 0x32 ∧ k ≠ 0x33) ∨ (payload.head? = some 0x31 ∧ payload.length ≠ 11)
      ∨ (payload.head? = some 0x32 ∧ payload.length ≠ 8) ∨ (payload.head? = some 0x33 ∧ payload.length ≠ 4)) :
    parseDetection u payload check = .drop .detBad := by
  unfold parseDetection
  by_cases hsum : sumOk payload check = false
  · rw [if_pos hsum]
  · rw [if_neg hsum]
    dsimp only
    obtain hkind | ⟨hkind, hlength⟩ | ⟨hkind, hlength⟩ | ⟨hkind, hlength⟩ := h
    · have hne : byteAt payload 0 ≠ 0x31 ∧ byteAt payload 0 ≠ 0x32 ∧ byteAt payload 0 ≠ 0x33 := by
        cases payload with
        | nil => exact ⟨by decide, by decide, by decide⟩
        | cons k rest => exact hkind k rfl
      rw [if_neg hne.1, if_neg hne.2.1, if_neg hne.2.2]
    · rw [byteAt_head hkind, if_pos rfl, if_pos hlength]
    · rw [byteAt_head hkind, if_neg (by decide), if_pos rfl, if_pos hlength]
    · rw [byteAt_head hkind, if_neg (by decide), if_neg (by decide), if_pos rfl, if_pos hlength]

theorem pointPasses_eq_some {u : Bn24} {kind : PointKind} {b : Byte} {q : PointIx} {r : PointRecord} (hq : b.toNat = q.val + 1)
    (hr : pointRecord u q = some r) (hkind : r.kind = kind) : pointPasses u kind b = some (q, r) := by
  have hpoint : pointOf b = some q := indexOf_eq_some hq
  simp [pointPasses, hpoint, hr, hkind]

theorem pointPasses_eq_none {u : Bn24} {kind : PointKind} {b : Byte}
    (h : ∀ (q : PointIx) (r : PointRecord), b.toNat = q.val + 1 → pointRecord u q = some r → r.kind ≠ kind) :
    pointPasses u kind b = none := by
  unfold pointPasses
  cases hpoint : pointOf b with
  | none => rfl
  | some q =>
    have hq : b.toNat = q.val + 1 := by
      unfold pointOf indexOf at hpoint
      split at hpoint
      · obtain rfl := Option.some.inj hpoint
        simp only
        omega
      · cases hpoint
    cases hr : pointRecord u q with
    | none => simp only [hr]
    | some r => simp only [hr, if_neg (h q r hq hr)]

/-- A measured speed is clamped into the bounds of the approach, 20 to 300 without a record (R31, R111). -/
theorem clampSpeed_eq {u : Bn24} {a : ApproachIx} {lo hi : Nat} (v : Nat)
    (h : match approachRecord u a with | some r => lo = r.vMin ∧ hi = r.vMax | none => lo = 20 ∧ hi = 300) :
    clampSpeed u a v = if v = 0 then 0 else if v < lo then lo else if hi < v then hi else v := by
  have hbounds : speedBounds u a = (lo, hi) := by
    unfold speedBounds
    cases hr : approachRecord u a with
    | none => simp only [hr] at h; rw [h.1, h.2]
    | some r => simp only [hr] at h; rw [h.1, h.2]
  rw [clampSpeed, hbounds]
  rfl

/-- Settles O17: the three parses, each test at its place; what passes by `exec_detMessage_good`. -/
theorem detectionMessagesAreTested : Obligations.DetectionMessagesAreTested := by
  unfold Obligations.DetectionMessagesAreTested
  refine ⟨fun s payload check hs => ?_, fun s check p v1 v0 trip cb l1 l0 s1 s0 fl q cls r lo hi hs h0 h1 hcls hq hr hbounds => ?_,
    fun s check v1 v0 trip hs h0 h1 hsum => ?_⟩
  · dsimp only
    refine ⟨fun hsum => ?_, fun hkind => ?_, fun hlength => ?_, fun p v1 v0 trip cls l1 l0 s1 s0 fl =>
      ⟨fun hv => ⟨?_, ?_, ?_⟩, fun hcls => ⟨?_, ?_⟩, fun h0 h1 hcls => ⟨fun hsum hpoint => ?_, fun hsum hpoint => ?_⟩⟩⟩
    · exact exec_detMessage_drop hs (if_pos (Bool.eq_false_iff.mpr fun h => hsum ((sumOk_iff _ _).mp h)))
    · exact exec_detMessage_drop hs (parseDetection_malformed _ _ (.inl hkind))
    · exact exec_detMessage_drop hs (parseDetection_malformed _ _ (.inr hlength))
    · refine exec_detMessage_drop hs ?_
      rw [parseDetection_checkIn, if_pos ((badVehicle_iff _).mpr hv), ite_self]
    · refine exec_detMessage_drop hs ?_
      rw [parseDetection_checkOut, if_pos ((badVehicle_iff _).mpr hv), ite_self]
    · refine exec_detMessage_drop hs ?_
      rw [parseDetection_cancel, if_pos ((badVehicle_iff _).mpr hv), ite_self]
    · refine exec_detMessage_drop hs ?_
      rw [parseDetection_checkIn, dif_neg (by omega), ite_self, ite_self]
    · refine exec_detMessage_drop hs ?_
      rw [parseDetection_checkOut, dif_neg (by omega), ite_self, ite_self]
    · refine exec_detMessage_drop hs ?_
      rw [parseDetection_checkIn, if_neg (sumOk_passes hsum),
        if_neg fun hv => ((badVehicle_iff _).mp hv).elim h0 h1, dif_pos (by omega),
        pointPasses_eq_none fun q r hq hr => by rw [hpoint q r hq hr]; exact nofun]
    · refine exec_detMessage_drop hs ?_
      rw [parseDetection_checkOut, if_neg (sumOk_passes hsum),
        if_neg fun hv => ((badVehicle_iff _).mp hv).elim h0 h1, dif_pos (by omega),
        pointPasses_eq_none fun q r hq hr => by rw [hpoint q r hq hr]; exact nofun]
  · have hclass (h : cb.toNat < 4) : (⟨cb.toNat, h⟩ : Fin 4) = cls := Fin.ext hcls
    have hlt : cb.toNat < 4 := by have := cls.isLt; omega
    refine ⟨fun hkind hsum => ?_, fun hkind hsum => ?_⟩
    · refine exec_detMessage_good hs ?_
      rw [parseDetection_checkIn, if_neg (sumOk_passes hsum),
        if_neg fun hv => ((badVehicle_iff _).mp hv).elim h0 h1, dif_pos hlt, pointPasses_eq_some hq hr hkind]
      simp only [hclass, clampLateness_eq, clampSpeed_eq _ hbounds]
    · refine exec_detMessage_good hs ?_
      rw [parseDetection_checkOut, if_neg (sumOk_passes hsum),
        if_neg fun hv => ((badVehicle_iff _).mp hv).elim h0 h1, dif_pos hlt, pointPasses_eq_some hq hr hkind]
      simp only [hclass, clampLateness_eq]
  · refine exec_detMessage_good hs ?_
    rw [parseDetection_cancel, if_neg (sumOk_passes hsum),
      if_neg fun hv => ((badVehicle_iff _).mp hv).elim h0 h1]

/-! ### The transmitter -/

/-- The check byte brings the sum of a short message to 0 (R204). -/
theorem sumsToZero_check (payload : List Byte) :
    SumsToZero payload (0 - (BitVec.ofNat 8 payload.length + sumBytes payload)) := by
  rw [← sumOk_iff, sumOk, decide_eq_true_eq]
  generalize BitVec.ofNat 8 payload.length + sumBytes payload = total
  bv_omega

theorem serialBits_eq (b : Byte) : serialBits b =
    [false, b.getLsbD 0, b.getLsbD 1, b.getLsbD 2, b.getLsbD 3, b.getLsbD 4, b.getLsbD 5, b.getLsbD 6, b.getLsbD 7, true] := rfl

/-- The bytes on the line of a message are its start byte, length, payload and check (R203, R204). -/
theorem linkBytes_of_payload (m : LinkMessage) : ∃ check,
    m.bytes = 0xD2 :: BitVec.ofNat 8 m.payload.length :: (m.payload ++ [check]) ∧ SumsToZero m.payload check :=
  ⟨_, rfl, sumsToZero_check m.payload⟩

theorem halfBytes_ofNat (n : Nat) : halfBytes (BitVec.ofNat 16 n) = [BitVec.ofNat 8 (n / 256), BitVec.ofNat 8 n] := by
  simp only [halfBytes, List.cons.injEq, and_true]
  refine ⟨BitVec.eq_of_toNat_eq ?_, BitVec.eq_of_toNat_eq ?_⟩
  · simp [Nat.shiftRight_eq_div_pow]
    omega
  · simp

/-- Bits in ascending order spell their number. -/
theorem foldr_testBit (w : Nat) : ∀ n : Nat, n < 2 ^ w →
    ((List.range w).map n.testBit).foldr (fun b m => b.toNat + 2 * m) 0 = n := by
  induction w with
  | zero => intro n hn; simp at hn ⊢; exact hn.symm
  | succ w ih =>
    intro n hn
    have hhalf := ih (n / 2) (by omega)
    have htail : (List.range w).map (n.testBit ∘ Nat.succ) = (List.range w).map (n / 2).testBit :=
      List.map_congr_left fun i _ => Nat.testBit_succ n i
    rw [List.range_succ_eq_map, List.map_cons, List.map_map, htail, List.foldr_cons, hhalf, Nat.testBit_zero]
    rcases Nat.mod_two_eq_zero_or_one n with h | h
    · simp [h]; omega
    · simp [h]; omega

/-- Settles O41: `linkBytes_of_payload` for both kinds, the bits by `serialBits_eq`. -/
theorem linkSendsInOrder : Obligations.LinkSendsInOrder := by
  unfold Obligations.LinkSendsInOrder
  refine ⟨fun s m hs hm => ?_, fun id a kind amount => ?_, fun id => linkBytes_of_payload (.clear id), fun u m hm => ?_, ?_⟩
  · refine ⟨_, (exec_act hs rfl).trans (by simp only [hm]), ?_, rfl⟩
    simp only [linkMessages, hm, Option.toList_some, List.singleton_append, List.tail_cons]
    cases s.unit.controller.waiting <;> rfl
  · have hpayload : (LinkMessage.call id a kind amount).payload = [0x51, id, BitVec.ofNat 8 (a.val + 1),
        (if kind = .extend then 1 else 2), BitVec.ofNat 8 (amount / 256), BitVec.ofNat 8 amount] := by
      simp only [LinkMessage.payload, halfBytes_ofNat, approachNumber]
      cases kind <;> rfl
    obtain ⟨check, hbytes, hsum⟩ := linkBytes_of_payload (.call id a kind amount)
    rw [hpayload] at hbytes hsum
    exact ⟨check, hbytes, hsum⟩
  · simp only [transmittedBits, transmittedBytes, hm, Option.map_some]
    rfl
  · intro b
    exact (congrArg (BitVec.ofNat 8) (foldr_testBit 8 b.toNat b.isLt)).trans (by simp)

end Sys2Proof.Machine
end

section
/-! The Forecast Unit: local and passage forecasts (chapter 2). -/

open Sys2Proof Sys2Proof.Machine

namespace Sys2Proof.Machine

/-! ### Times around a moment -/

theorem ds_eq_ofInt (n : Nat) : ds n = BitVec.ofInt 24 n := (BitVec.ofInt_natCast 24 n).symm

/-- A count of ds after a time that lies so many ds from another. -/
theorem add_ofInt_add (t : Time) (x y : Int) : t + BitVec.ofInt 24 x + BitVec.ofInt 24 y = t + BitVec.ofInt 24 (x + y) := by
  rw [BitVec.add_assoc, BitVec.ofInt_add]

theorem add_ofInt_sub_ds (t : Time) (x : Int) (n : Nat) : t + BitVec.ofInt 24 x - ds n = t + BitVec.ofInt 24 (x - n) := by
  rw [ds_eq_ofInt, BitVec.sub_eq_add_neg, ← BitVec.ofInt_neg, add_ofInt_add, Int.sub_eq_add_neg]

/-- The difference of two moments near one time is that of their distances from it. -/
theorem timeDiff_ofInt (t : Time) (x y : Int) (h : -8388608 ≤ x - y) (h' : x - y ≤ 8388607) :
    timeDiff (t + BitVec.ofInt 24 x) (t + BitVec.ofInt 24 y) = x - y := by
  have hx : t + BitVec.ofInt 24 x = t + BitVec.ofInt 24 y + BitVec.ofInt 24 (x - y) := by
    rw [add_ofInt_add, show y + (x - y) = x by omega]
  rw [hx, timeDiff_add _ _ h h']

/-- The window of a lead within the next 3,000 ds by a spread of 10 to 300 ds: it starts no earlier than the present, and keeps
the three limits of every window (R38, R44). -/
theorem windowAround_limits (t : Time) {lead : Int} {e : Nat} (hlead : 0 ≤ lead) (hcap : lead ≤ 3000)
    (hlow : 10 ≤ e) (hhigh : e ≤ 300) :
    let w := windowAround t (t + BitVec.ofInt 24 lead) e
    w.stop = t + BitVec.ofInt 24 (lead + e) ∧ timeDiff w.start t = max 0 (lead - e) ∧ timeDiff w.stop t = lead + e
      ∧ 0 < timeDiff w.stop w.start ∧ timeDiff w.stop w.start ≤ 600 ∧ timeDiff w.stop t ≤ 3300 := by
  intro w
  have hstop : w.stop = t + BitVec.ofInt 24 (lead + e) := by
    show t + BitVec.ofInt 24 lead + ds e = _
    rw [ds_eq_ofInt, add_ofInt_add]
  have hstart : w.start = t + BitVec.ofInt 24 (max 0 (lead - e)) := by
    show laterOf t (t + BitVec.ofInt 24 lead - ds e) = _
    have hdiff := timeDiff_add t (lead - e) (by omega) (by omega)
    rw [add_ofInt_sub_ds, laterOf, later, hdiff]
    by_cases hlater : 0 < lead - e
    · rw [if_pos (by simpa using hlater), max_eq_right (by omega)]
    · rw [if_neg (by simpa using hlater), max_eq_left (by omega)]
      simp
  have hends : timeDiff w.stop w.start = lead + e - max 0 (lead - e) := by
    rw [hstop, hstart]
    exact timeDiff_ofInt t _ _ (by omega) (by omega)
  have hfrom : timeDiff w.stop t = lead + e := by
    rw [hstop]
    exact timeDiff_add t _ (by omega) (by omega)
  refine ⟨hstop, ?_, hfrom, by omega, by omega, by omega⟩
  rw [hstart]
  exact timeDiff_add t _ (by omega) (by omega)

theorem ceilDiv_hundred (n : Nat) : ceilDiv n 100 = (n + 99) / 100 := rfl

/-! ### Local forecasts -/

theorem speedBounds_eq (u : Bn24) (a : ApproachIx) :
    speedBounds u a = ((approachRecord u a).elim 20 ApproachRecord.vMin, (approachRecord u a).elim 300 ApproachRecord.vMax) := by
  unfold speedBounds
  cases approachRecord u a <;> rfl

theorem dwellOf_eq (u : Bn24) (a : ApproachIx) : dwellOf u a = (approachRecord u a).elim 0 ApproachRecord.dwell := by
  unfold dwellOf
  cases approachRecord u a <;> rfl

theorem spreadOf_eq (u : Bn24) (a : ApproachIx) : spreadOf u a = (approachRecord u a).elim 0 ApproachRecord.spread := by
  unfold spreadOf
  cases approachRecord u a <;> rfl

theorem forecastSpeed_eq (u : Bn24) (p : PointRecord) (measured : Nat) :
    let lo := (approachRecord u p.approach).elim 20 ApproachRecord.vMin
    let hi := (approachRecord u p.approach).elim 300 ApproachRecord.vMax
    let speed := if measured = 0 then p.nominal else measured
    forecastSpeed u p measured = if speed < lo then lo else if hi < speed then hi else speed := by
  simp only [forecastSpeed, speedBounds_eq]
  rfl

theorem localSpread_eq (lead percent : Nat) : localSpread lead percent = max 10 (min 300 ((lead * percent + 99) / 100)) :=
  clamp_eq 10 300 _ (by decide)

/-- Settles O19: the travel time by `ceilDiv_le_iff`, the window by `windowAround_limits`. -/
theorem localForecasts : Obligations.LocalForecasts := by
  unfold Obligations.LocalForecasts
  refine ⟨⟨fun d v hv => ⟨(ceilDiv_le_iff _ _ _ hv).mp (Nat.le_refl _), fun n hn => (ceilDiv_le_iff _ _ _ hv).mpr hn⟩,
    fun d v hd hd' hv hv' => ⟨?_, (ceilDiv_le_iff _ _ _ (by omega)).mpr (by omega)⟩⟩, fun u p measured skip => ?_⟩
  · by_contra hshort
    have := (ceilDiv_le_iff (100 * d) v 3 (by omega)).mp (by unfold travelTime at hshort; omega)
    omega
  · intro a lo hi speed v lead spread w
    have hspeed : forecastSpeed u p measured = v := forecastSpeed_eq u p measured
    have hdwell : localDwell u p skip = if p.stopAhead = true ∧ skip = false then a.elim 0 ApproachRecord.dwell else 0 := by
      simp only [localDwell, dwellOf_eq, Bool.and_eq_true, Bool.not_eq_true']
      rfl
    have hlead : localLead u p measured skip = lead := by
      rw [localLead, hspeed, hdwell]
      rfl
    have hw : w = windowAround u.localTime (u.localTime + BitVec.ofInt 24 lead) spread := by
      show windowAround u.localTime (u.localTime + ds (localLead u p measured skip))
        (localSpread (localLead u p measured skip) (spreadOf u p.approach)) = _
      rw [hlead, localSpread_eq, spreadOf_eq, ds_eq_ofInt]
    have hcap : lead ≤ 3000 := Nat.min_le_left _ _
    have hspread : 10 ≤ spread ∧ spread ≤ 300 := by omega
    obtain ⟨hstop, hstart, -, hend, hwide, hfar⟩ :=
      windowAround_limits u.localTime (lead := lead) (by omega) (by omega) hspread.1 hspread.2
    rw [← hw] at hstop hstart hend hwide hfar
    refine ⟨hspeed, hlead, ?_, hstart, hend, hwide, hfar⟩
    rw [hstop, ds_eq_ofInt, Nat.cast_add]

/-! ### Passage forecasts -/

/-- The ds since the departure that a passage reports (R40). -/
def elapsedOf (u : Bn24) (f : ReceivedPassage) : Int := timeDiff u.localTime (localDeparture u f)

theorem timeDiff_bounds (x y : Time) : -8388608 ≤ timeDiff x y ∧ timeDiff x y ≤ 8388607 := by
  have hlow : -8388608 ≤ (x - y).toInt := BitVec.le_toInt (x - y)
  have hhigh : (x - y).toInt < 8388608 := BitVec.toInt_lt (x := x - y)
  exact ⟨hlow, Int.le_of_lt_add_one hhigh⟩

theorem localDeparture_eq (u : Bn24) (f : ReceivedPassage) :
    localDeparture u f = u.localTime + BitVec.ofInt 24 (-elapsedOf u f) := by
  have hnow : u.localTime = localDeparture u f + BitVec.ofInt 24 (elapsedOf u f) := eq_add_timeDiff _ _
  have hback : localDeparture u f + BitVec.ofInt 24 (elapsedOf u f) + BitVec.ofInt 24 (-elapsedOf u f) = localDeparture u f := by
    rw [add_ofInt_add, show elapsedOf u f + -elapsedOf u f = 0 by omega]
    simp
  rw [← hnow] at hback
  exact hback.symm

theorem passageDwell_eq (u : Bn24) (l : LinkRecord) :
    passageDwell u l = (approachRecord u l.approach).elim 0 (fun r => if r.nearSide = true then r.dwell else 0) := by
  unfold passageDwell nearSideOf dwellOf
  cases approachRecord u l.approach with
  | none => rfl
  | some r => rfl

/-- The arrival is bounded into the next 3,000 ds (R42). -/
theorem passageArrival_eq (u : Bn24) (f : ReceivedPassage) (l : LinkRecord)
    (h : ((l.linkTime + passageDwell u l : Nat) : Int) - elapsedOf u f ≤ 8388607) :
    passageArrival u f l = u.localTime + BitVec.ofInt 24 (max 0 (min 3000 ((l.linkTime + passageDwell u l : Nat) - elapsedOf u f))) := by
  have hrange : -8388608 ≤ elapsedOf u f ∧ elapsedOf u f ≤ 8388607 := timeDiff_bounds _ _
  generalize hahead : ((l.linkTime + passageDwell u l : Nat) : Int) - elapsedOf u f = ahead at h
  have harrival : localDeparture u f + ds (l.linkTime + passageDwell u l) = u.localTime + BitVec.ofInt 24 ahead := by
    rw [localDeparture_eq, ds_eq_ofInt, add_ofInt_add, show -elapsedOf u f + ((l.linkTime + passageDwell u l : Nat) : Int) = ahead by omega]
  have hfrom := timeDiff_add u.localTime ahead (by omega) h
  simp only [passageArrival, harrival, earlier, later, hfrom, decide_eq_true_eq]
  by_cases hpast : ahead < 0
  · rw [if_pos hpast, max_eq_left (by omega)]
    simp
  · have hcap : timeDiff (u.localTime + BitVec.ofInt 24 ahead) (u.localTime + ds Config.leadCap) = ahead - 3000 := by
      rw [ds_eq_ofInt]
      exact timeDiff_ofInt _ _ _ (by show _ ≤ ahead - 3000; omega) (by show ahead - 3000 ≤ _; omega)
    rw [if_neg hpast, hcap]
    by_cases hfar : 0 < ahead - 3000
    · rw [if_pos hfar, min_eq_left (by omega), ds_eq_ofInt]
      rfl
    · rw [if_neg hfar, min_eq_right (by omega), max_eq_right (by omega)]

theorem passageSpread_eq (u : Bn24) (l : LinkRecord) (q : Quality) : passageSpread u l q =
    max 10 (min 300 (((l.linkTime + passageDwell u l) * l.spread + 99) / 100 + (match q with | .fair => 20 | .good => 0))) :=
  clamp_eq 10 300 _ (by decide)

/-- A forecast that is not stale has a window, with its quality and grade (R39, R44). -/
theorem passageForecast_timed {u : Bn24} {f : ReceivedPassage} {l : LinkRecord} {q : Quality} (hq : passageQuality u f = some q)
    (hstale : passageStale u f l = false) (h : ((l.linkTime + passageDwell u l : Nat) : Int) - elapsedOf u f ≤ 8388607) :
    let lead : Int := max 0 (min 3000 ((l.linkTime + passageDwell u l : Nat) - elapsedOf u f))
    ∃ w : Window, passageForecast u f l = .timed w q (gradeOf u f.routeClass f.lateness f.chain)
      ∧ timeDiff w.start u.localTime = max 0 (lead - passageSpread u l q)
      ∧ timeDiff w.stop u.localTime = lead + passageSpread u l q
      ∧ 0 < timeDiff w.stop w.start ∧ timeDiff w.stop w.start ≤ 600 ∧ timeDiff w.stop u.localTime ≤ 3300 := by
  intro lead
  have hspread : 10 ≤ passageSpread u l q ∧ passageSpread u l q ≤ 300 := clamp_bounds 10 300 _ (by decide)
  obtain ⟨-, hlimits⟩ :=
      windowAround_limits u.localTime (lead := lead) (by omega) (by omega) hspread.1 hspread.2
  rw [← passageArrival_eq u f l h] at hlimits
  refine ⟨windowAround u.localTime (passageArrival u f l) (passageSpread u l q), ?_, hlimits⟩
  simp only [passageForecast, hq, hstale, Bool.false_eq_true, if_false]
  rfl

theorem lowerQuality_eq_none {a b : TimeQuality} : lowerQuality a b = none ↔ a = .none ∨ b = .none := by
  cases a <;> cases b <;> simp [lowerQuality]

theorem lowerQuality_fair {a b : TimeQuality} (ha : a ≠ .none) (hb : b ≠ .none) (h : a = .fair ∨ b = .fair) :
    lowerQuality a b = some .fair := by
  cases a <;> cases b <;> simp_all [lowerQuality]

/-- The sender's time quality is that of its peer record, if that is not stale (R45). -/
theorem senderQuality_timed {u : Bn24} {f : ReceivedPassage} (h : f.timed = true) :
    senderQuality u f = match peerOf u f.sender with
      | some p => if peerStale u p then .fair else lockQuality p.lock
      | none => .fair := if_pos h

/-- Settles O20: the qualities by `lowerQuality`; a timed forecast by `passageForecast_timed`. -/
theorem passageForecasts : Obligations.PassageForecasts := by
  unfold Obligations.PassageForecasts
  refine ⟨fun u f l => ?_, fun lock => by cases lock <;> decide, fun u f hpeers => ⟨fun ht => if_neg (by simp [ht]),
    fun ht hstale => ?_, fun ht p hp hsender hfresh => ?_⟩⟩
  · intro elapsed dwell lead receiver sender spread timed stale
    have hdwell : passageDwell u l = dwell := passageDwell_eq u l
    have hstale : passageStale u f l = true ↔ stale := decide_eq_true_iff
    have timed_of (q : Quality) (extra : Nat) (hspread : passageSpread u l q = spread extra) (hq : passageQuality u f = some q)
        (hsoon : ((l.linkTime + dwell : Nat) : Int) - elapsed ≤ 8388607) (hnot : ¬ stale) : timed q extra := by
      have h := passageForecast_timed (l := l) hq (Bool.eq_false_iff.mpr fun hs => hnot (hstale.mp hs)) (by rw [hdwell]; exact hsoon)
      rw [hspread, hdwell] at h
      exact h
    refine ⟨fun hnone => ?_, fun hs hr hst => ?_, fun hsoon hs hr hnot => ?_, fun hsoon hs hr hfair hnot => ?_⟩
    · have hq : passageQuality u f = none := lowerQuality_eq_none.mpr hnone
      simp only [passageForecast, hq]
      rfl
    · have hq : passageQuality u f ≠ none := fun h => (lowerQuality_eq_none.mp h).elim hs hr
      obtain ⟨q, hq⟩ := Option.ne_none_iff_exists'.mp hq
      simp only [passageForecast, hq, hstale.mpr hst, if_true]
    · have hq : passageQuality u f = some .good := by
        show lowerQuality sender receiver = _
        rw [hs, hr]
        rfl
      exact timed_of .good 0 (by rw [passageSpread_eq, hdwell]) hq hsoon hnot
    · exact timed_of .fair 20 (by rw [passageSpread_eq, hdwell]) (lowerQuality_fair hs hr hfair) hsoon hnot
  · rw [senderQuality_timed ht]
    cases hp : peerOf u f.sender with
    | none => rfl
    | some p =>
      obtain ⟨hmem, hstation⟩ : p ∈ u.clock.peers ∧ p.station = f.sender :=
        ⟨List.mem_of_find?_eq_some hp, by simpa using List.find?_some hp⟩
      exact if_pos ((peerStale_iff u p).mpr (Int.not_le.mpr (hstale p hmem hstation)))
  · rw [senderQuality_timed ht, ← hsender, peerOf_eq_some hpeers.2 hp]
    exact if_neg (fun hs => (peerStale_iff u p).mp hs hfresh)

end Sys2Proof.Machine
end

section
/-! The Approach Table: CHECK-INs, CHECK-OUTs, CANCELs, forecast requests, invalidations and the table's timers (chapter 1), and the
members that they take out of a grant (section 4.4). -/

open Sys2Proof Sys2Proof.Machine

namespace Sys2Proof.Machine

/-! ### The table's own operations -/

/-- The unit as the table has taken a detection message in its turn (R6, R13, R115). -/
def tookDetection (u : Bn24) (rq : List TableRequest) (ib : List DetectionMessage) : Bn24 :=
  { u with detection.inbox := ib, table.recent := liveRecent u, table.requests := rq }

/-- The unit as the table has taken a request that is not a detection message (R6, R13). -/
def tookRequest (u : Bn24) (rq : List TableRequest) : Bn24 := { u with table.recent := liveRecent u, table.requests := rq }

section

variable {s : State} {p : PointIx} {k : Key} {cls : Fin 4} {late : Int} {speed : Nat} {skip : Bool} {rq : List TableRequest}
  {ib : List DetectionMessage}

theorem exec_checkIn (h : TakesDetection s (.checkIn p k cls late speed skip) rq ib) :
    exec .checkIn s = .next { s with unit := handleCheckIn p k cls late speed skip (tookDetection s.unit rq ib) } := by
  obtain ⟨hturn, htaken⟩ := takesDetection_taken h
  refine (exec_act h.1.1 rfl).trans ?_
  simp only [hturn, htaken]
  rfl

theorem exec_checkOut (h : TakesDetection s (.checkOut p k cls late) rq ib) :
    exec .checkOut s = .next { s with unit := handleCheckOut p k cls late (tookDetection s.unit rq ib) } := by
  obtain ⟨hturn, htaken⟩ := takesDetection_taken h
  refine (exec_act h.1.1 rfl).trans ?_
  simp only [hturn, htaken]
  rfl

theorem exec_cancel (h : TakesDetection s (.cancel k) rq ib) :
    exec .cancel s = .next { s with unit := handleCancel k (tookDetection s.unit rq ib) } := by
  obtain ⟨hturn, htaken⟩ := takesDetection_taken h
  refine (exec_act h.1.1 rfl).trans ?_
  simp only [hturn, htaken]
  rfl

theorem exec_forecastRequest {f : ForecastRequest} (hs : Active s) (h : s.unit.table.requests = .forecast f :: rq) :
    exec .forecastRequest s = .next { s with unit := handleForecast f (tookRequest s.unit rq) } := by
  refine (exec_act hs rfl).trans ?_
  simp only [h, purgeRecent_eq, popRequest, List.tail_cons]
  rfl

theorem exec_invalidationRequest (hs : Active s) (h : s.unit.table.requests = .invalidation k :: rq) :
    exec .invalidationRequest s = .next { s with unit := handleInvalidation k { s.unit with table.requests := rq } } := by
  refine (exec_act hs rfl).trans ?_
  simp only [h, popRequest, List.tail_cons]

end

theorem abandonOffer_eq (u : Bn24) : abandonOffer u = { u with arbiter.slot := abandoned u.arbiter.slot } := by
  unfold abandonOffer abandoned setGrant
  cases h : u.arbiter.slot <;> simp [← h]

theorem placeEntry_running {u : Bn24} (h : u.loader.run = .running) (i : SlotIx) (e : Entry) :
    placeEntry i e u = { u with table.slots := u.table.slots.set i (some e)
                                table.requests := u.table.requests ++ [.evaluation { slot := i, key := e.key }] } :=
  sendTable_running (u := setSlot i (some e) u) h _

/-- An update outside a grant writes the entry and has it evaluated; an ARMED entry that cannot be called, and an OFFERED one whose
call does not stand, are WAITING again (R17, R23, R80). -/
theorem rewriteEntry_outside {u : Bn24} (h : u.loader.run = .running) (i : SlotIx) (old new : Entry) (stands : Bool)
    (hs : old.service = .waiting ∨ old.service = .armed ∨ old.service = .offered)
    (hstands : old.service = .offered → stands = false) :
    rewriteEntry i old new stands u =
      { u with
        table.slots := u.table.slots.set i (some
          (if old.service = .offered ∨ (old.service = .armed ∧ (new.grade = 0 ∨ new.window = none)) then toWaiting new else new))
        table.requests := u.table.requests ++ [.evaluation { slot := i, key := new.key }]
        arbiter.slot := if old.service = .offered then abandoned u.arbiter.slot else u.arbiter.slot } := by
  obtain hs | hs | hs := hs
  · simp only [rewriteEntry, hs]
    exact placeEntry_running h i new
  · simp only [rewriteEntry, hs, reduceCtorEq, false_or, true_and, if_false]
    split
    · exact placeEntry_running h i (toWaiting new)
    · exact placeEntry_running h i new
  · simp only [rewriteEntry, hs, hstands hs, abandonOffer_eq, true_or, if_true, Bool.false_eq_true, if_false]
    exact placeEntry_running (u := { u with arbiter.slot := abandoned u.arbiter.slot }) h i (toWaiting new)

/-! ### CHECK-INs -/

section

variable {u : Bn24} {p : PointIx} {k : Key} {cls : Fin 4} {late : Int} {speed : Nat} {skip : Bool} {r : PointRecord}

theorem handleCheckIn_new (hr : pointRecord u p = some r) (hlive : ∀ d ∈ u.table.recent, d.key ≠ k) (hnone : NoEntry u k) :
    handleCheckIn p k cls late speed skip u = allocateConfirmed (newConfirmed u r k cls late speed skip) u := by
  simp only [handleCheckIn, inRecent_eq_false u k hlive, Bool.false_eq_true, if_false, hr, (findKey_eq_none u k).mpr hnone]

theorem handleCheckIn_held (hr : pointRecord u p = some r) (hlive : ∀ d ∈ u.table.recent, d.key ≠ k) {i : SlotIx} {e : Entry}
    (he : HoldsKey u k i e) :
    handleCheckIn p k cls late speed skip u = rewriteEntry i e (checkedIn u e r cls late speed skip) false u := by
  simp only [handleCheckIn, inRecent_eq_false u k hlive, Bool.false_eq_true, if_false, hr, findKey_of_holds u k i e he, he.1]

/-- A CHECK-IN of an entry outside a grant: an ARMED one of grade 0 and an OFFERED one are WAITING again (R16, R17). -/
theorem checkedIn_outside {e : Entry} (h : e.service = .waiting ∨ e.service = .armed ∨ e.service = .offered) :
    (if e.service = .offered ∨ (e.service = .armed ∧ ((checkedIn u e r cls late speed skip).grade = 0
          ∨ (checkedIn u e r cls late speed skip).window = none))
      then toWaiting (checkedIn u e r cls late speed skip) else checkedIn u e r cls late speed skip) =
    { key := e.key, confirmation := .confirmed, approach := r.approach, chain := e.chain
      grade := gradeOf u cls late e.chain, window := some (localWindow u r speed skip)
      quality := none, updated := u.localTime
      service := if e.service = .armed ∧ gradeOf u cls late e.chain ≠ 0 then .armed else .waiting
      decision :=
        if e.service = .offered ∨ (e.service = .armed ∧ gradeOf u cls late e.chain = 0) then none else e.decision
      declined := if e.approach = r.approach then e.declined else none, served := e.served } := by
  obtain h | h | h := h
  · simp [checkedIn, updatedMark, h]
  · by_cases hgrade : gradeOf u cls late e.chain = 0
    · simp [checkedIn, updatedMark, toWaiting, h, hgrade]
    · simp [checkedIn, updatedMark, h, hgrade]
  · simp [checkedIn, updatedMark, toWaiting, h]

end

/-- Settles O21: a new entry by `placeEntry_running`, an entry outside a grant by `rewriteEntry_outside`, a member by
`rewriteEntry_member`. -/
theorem checkInsMakeEntries : Obligations.CheckInsMakeEntries := by
  unfold Obligations.CheckInsMakeEntries
  refine ⟨fun s p k cls late speed skip rq ib r i ht hr hlive hnone hi => ?_,
    fun s p k cls late speed skip rq ib r i e ht hr hlive he hservice => ?_,
    fun s p k cls late speed skip rq ib r i e g ht hr hlive he hservice hg => ?_⟩
  · have hempty : lowestEmpty (tookDetection s.unit rq ib) = some i := (lowestEmpty_eq_some _ i).mpr hi
    rw [exec_checkIn ht, handleCheckIn_new (u := tookDetection s.unit rq ib) hr hlive hnone, allocateConfirmed]
    simp only [hempty]
    rw [placeEntry_running (u := tookDetection s.unit rq ib) ht.1.2]
    rfl
  · rw [exec_checkIn ht, handleCheckIn_held (u := tookDetection s.unit rq ib) hr hlive he,
      rewriteEntry_outside (u := tookDetection s.unit rq ib) ht.1.2 _ _ _ _ hservice fun _ => rfl]
    obtain rfl := he.2.1
    rw [checkedIn_outside hservice]
    rfl
  · intro taken new
    have hkey := he.2.1
    obtain ⟨hstays, hleaves⟩ := rewriteEntry_member (tookDetection s.unit rq ib) g i e
      (checkedIn (tookDetection s.unit rq ib) e r cls late speed skip)
      false (isRunning_of ht.1.2) hg he.1 rfl hservice
    refine ⟨fun ha hfits => ?_, fun hnot => ⟨_, ?_, hleaves ?_⟩⟩
    · rw [exec_checkIn ht, handleCheckIn_held (u := tookDetection s.unit rq ib) hr hlive he, hstays ha.symm hfits]
      rfl
    · rw [exec_checkIn ht, handleCheckIn_held (u := tookDetection s.unit rq ib) hr hlive he]
    · exact hnot.imp_left fun h h' => h h'.symm

/-! ### A full table -/

/-- An entry that takes a victim's slot (R8, R10, R11). -/
theorem placeEntry_evicted {u : Bn24} (h : u.loader.run = .running) (v : SlotIx) (e : Entry) :
    placeEntry v e (evictSlot v u) = count .tableEvicted
      { u with table.slots := u.table.slots.set v (some e)
               table.requests := u.table.requests ++ [.evaluation { slot := v, key := e.key }] } := by
  have hset : setSlot v (some e) (evictSlot v u) = count .tableEvicted (setSlot v (some e) u) := by
    show count .tableEvicted (setSlot v (some e) (setSlot v none u)) = _
    rw [setSlot_setSlot]
  rw [placeEntry, hset, requestEvaluation, sendTable_running (by exact h)]
  rfl

/-- Over a forecast victim the pointer moves past it (R8). -/
theorem placeEntry_victim {u : Bn24} (h : u.loader.run = .running) (v : SlotIx) (e : Entry) :
    placeEntry v e (movePointer v (evictSlot v u)) = count .tableEvicted
      { u with table.slots := u.table.slots.set v (some e), table.evict := v + 1
               table.requests := u.table.requests ++ [.evaluation { slot := v, key := e.key }] } :=
  placeEntry_evicted (u := movePointer v u) h v e

/-- Settles O22: the cases of `allocateConfirmed` on a full table. -/
theorem fullTableMakesRoomOrRefuses : Obligations.FullTableMakesRoomOrRefuses := by
  unfold Obligations.FullTableMakesRoomOrRefuses
  intro s p k cls late speed skip rq ib r ht hr hlive hnone hfull new taken written placed
  have hempty : lowestEmpty (tookDetection s.unit rq ib) = none := (lowestEmpty_eq_none _).mpr hfull
  have hexec : exec .checkIn s = .next { s with unit := allocateConfirmed new taken } := by
    rw [exec_checkIn ht, handleCheckIn_new (u := tookDetection s.unit rq ib) hr hlive hnone]
    rfl
  rw [hexec, allocateConfirmed]
  simp only [show lowestEmpty taken = none from hempty]
  refine ⟨fun v hv => ?_, fun hno => ⟨fun j f hf hleast => ?_, fun hnoConfirmed => ?_⟩⟩
  · simp only [show forecastVictim taken = some v from (forecastVictim_eq_some _ v).mpr hv]
    rw [placeEntry_victim (u := taken) ht.1.2]
    rfl
  · simp only [show forecastVictim taken = none from forecastVictim_eq_none _ hno,
      show lowestConfirmed taken = some (j, f.grade) from lowestConfirmed_eq_some _ j f hf hleast]
    refine ⟨fun hlower => ?_, fun hnot => ?_⟩
    · rw [if_pos hlower, placeEntry_evicted (u := taken) ht.1.2]
      rfl
    · rw [if_neg (by omega)]
  · simp only [show forecastVictim taken = none from forecastVictim_eq_none _ hno,
      show lowestConfirmed taken = none from lowestConfirmed_eq_none _ hnoConfirmed]

/-! ### Late items -/

/-- Settles O23: the first test of each handling. -/
theorem liveDeparturesDiscardLateItems : Obligations.LiveDeparturesDiscardLateItems := by
  unfold Obligations.LiveDeparturesDiscardLateItems
  intro s p k cls late speed skip rq ib f hs hlive taken discarded
  have hin : ∃ d ∈ liveRecent s.unit, d.key = k := by
    obtain ⟨d, hd, hkey, hage⟩ := hlive
    exact ⟨d, List.mem_filter.mpr ⟨hd, decide_eq_true hage⟩, hkey⟩
  have hrecent (ib : List DetectionMessage) : inRecent (tookDetection s.unit rq ib) k = true := (inRecent_iff _ k).mpr hin
  refine ⟨fun ht => ?_, fun ht => ?_, fun hf hkey => ?_⟩
  · rw [exec_checkIn ht, handleCheckIn, if_pos (hrecent ib)]
    rfl
  · rw [exec_checkOut ht, handleCheckOut, if_pos (hrecent ib)]
    rfl
  · subst hkey
    rw [exec_forecastRequest hs hf, handleForecast,
      if_pos (show inRecent (tookRequest s.unit rq) f.key = true from (inRecent_iff _ _).mpr hin)]
    rfl

/-! ### Removal -/

/-- A removal outside a grant keeps what a report of it reads. -/
theorem addDeparture_took (u v : Bn24) (k : Key) (hrecent : v.table.recent = liveRecent u) (hnow : v.localTime = u.localTime) :
    addDeparture k v = { v with table.recent := recentWith u k } := by
  rw [addDeparture, withDeparture_eq_recentWith u v k hrecent hnow]

/-- A PASSAGE is requested as the configuration in force allows (R20). -/
theorem requestPassage_of (r : PassageRequest) {u v : Bn24} (h : v.loader = u.loader) :
    ∃ sent, requestPassage r v = { v with handler.requests := v.handler.requests ++ sent }
      ∧ (ReportsOnward u r.approach → sent = [.passage r]) ∧ (¬ ReportsOnward u r.approach → sent = []) := by
  obtain ⟨sent, hsent, honward, hnot⟩ := requestPassage_cases r v
  have hsame : ReportsOnward v r.approach ↔ ReportsOnward u r.approach := by
    have hl (d : FlowDirection) : linkRecord v d = linkRecord u d := by cases d <;> simp [linkRecord, h]
    simp [ReportsOnward, approachRecord, hl, h]
  exact ⟨sent, hsent, fun hr => honward (hsame.mpr hr), fun hr => hnot fun h => hr (hsame.mp h)⟩

section

variable {u : Bn24} {p : PointIx} {k : Key} {cls : Fin 4} {late : Int} {r : PointRecord}

theorem handleCheckOut_unmatched (hr : pointRecord u p = some r) (hlive : ∀ d ∈ u.table.recent, d.key ≠ k) (hnone : NoEntry u k) :
    handleCheckOut p k cls late u = requestPassage
      { key := k, routeClass := cls, lateness := late, chain := 0, grade := gradeOf u cls late 0, approach := r.approach
        checkOut := u.localTime }
      (addDeparture k (count .checkoutUnmatched u)) := by
  simp only [handleCheckOut, inRecent_eq_false u k hlive, Bool.false_eq_true, if_false, hr, (findKey_eq_none u k).mpr hnone]

theorem handleCheckOut_held (hr : pointRecord u p = some r) (hlive : ∀ d ∈ u.table.recent, d.key ≠ k) {i : SlotIx} {e : Entry}
    (he : HoldsKey u k i e) :
    handleCheckOut p k cls late u = requestPassage
      { key := k, routeClass := cls, lateness := late, chain := sentChain e, grade := e.grade, approach := r.approach
        checkOut := u.localTime }
      (addDeparture k (removeEntry i e u)) := by
  simp only [handleCheckOut, inRecent_eq_false u k hlive, Bool.false_eq_true, if_false, hr, findKey_of_holds u k i e he, he.1]

theorem handleCancel_none (hnone : NoEntry u k) : handleCancel k u = sendHandler (.withdraw k) (addDeparture k u) := by
  simp only [handleCancel, (findKey_eq_none u k).mpr hnone]

theorem handleCancel_held {i : SlotIx} {e : Entry} (he : HoldsKey u k i e) :
    handleCancel k u = sendHandler (.withdraw k) (addDeparture k (removeEntry i e u)) := by
  simp only [handleCancel, findKey_of_holds u k i e he, he.1]

end

/-- Settles O25: `handleCancel` with and without an entry. -/
theorem cancelRemovesAndWithdraws : Obligations.CancelRemovesAndWithdraws := by
  unfold Obligations.CancelRemovesAndWithdraws
  intro s k rq ib ht
  refine ⟨fun hnone => ?_, fun i e he hservice => ?_⟩
  · rw [exec_cancel ht, handleCancel_none (u := tookDetection s.unit rq ib) hnone,
      addDeparture_took s.unit (tookDetection s.unit rq ib) k rfl rfl]
    rfl
  · rw [exec_cancel ht, handleCancel_held (u := tookDetection s.unit rq ib) he, removeEntry_outside_grant _ i e hservice,
      addDeparture_took s.unit]
    · rfl
    · rfl
    · rfl

/-! ### Members that are removed -/

/-- The leaving of a member changes neither the configuration nor any counter but CALLS_OFFERED. -/
theorem memberLeaves_counts (r : EntryRef) (u : Bn24) :
    (memberLeaves r u).loader = u.loader ∧ ∀ c, c ≠ .callsOffered → counterOf c (memberLeaves r u) = counterOf c u := by
  have sel : ∀ v : Bn24, (selection v).loader = v.loader
      ∧ ∀ c, c ≠ .callsOffered → counterOf c (selection v) = counterOf c v := by
    intro v
    rcases selection_cases v with h | ⟨d, _, _, _, _, h⟩
    · rw [h]; exact ⟨rfl, fun _ _ => rfl⟩
    · obtain ⟨x, y, hf⟩ := issueOffer_frame d v
      rw [h, hf]
      exact ⟨rfl, fun c hc => (counterOf_count .callsOffered c v).trans (if_neg (Ne.symm hc))⟩
  rcases memberLeaves_cases r u with ⟨h, _⟩ | ⟨g, _, ⟨_, h⟩ | ⟨m, rest, _, h⟩⟩
  · rw [h]; exact ⟨rfl, fun _ _ => rfl⟩
  · obtain ⟨hloader, hcounter⟩ := sel (evaluateApproach g.approach (freeGrant (handLink (.clear g.id) u)))
    rw [h, endGrant, grantEnded]
    refine ⟨hloader.trans ?_, fun c hc => (hcounter c hc).trans ?_⟩
    · rw [evaluateApproach, sendTable_frame, handLink_frame]
      rfl
    · rw [evaluateApproach, sendTable_frame, handLink_frame]
      rfl
  · rw [h]
    split
    · rw [modifyEntry_frame]; exact ⟨rfl, fun _ _ => rfl⟩
    · exact ⟨rfl, fun _ _ => rfl⟩

/-- A member that has left is in no grant (R91, R93). -/
theorem memberLeaves_not_member {r : EntryRef} {u : Bn24} {h : Grant} (hslot : (memberLeaves r u).arbiter.slot = .active h) :
    r ∉ h.members := by
  rcases memberLeaves_cases r u with ⟨hsame, hnot⟩ | ⟨g, hg, ⟨_, he⟩ | ⟨m, rest, hfilter, he⟩⟩
  · rw [hsame] at hslot
    exact absurd hslot (hnot h)
  · rw [he, endGrant, grantEnded] at hslot
    have hfree : (evaluateApproach g.approach (freeGrant (handLink (.clear g.id) u))).arbiter.slot = .free := by
      rw [evaluateApproach, sendTable_frame]
      rfl
    rcases selection_cases (evaluateApproach g.approach (freeGrant (handLink (.clear g.id) u))) with hs | ⟨d, _, _, _, _, hs⟩
    · rw [hs, hfree] at hslot
      cases hslot
    · obtain ⟨x, y, hf⟩ := issueOffer_frame d (evaluateApproach g.approach (freeGrant (handLink (.clear g.id) u)))
      rw [hs, hf] at hslot
      cases hslot
  · have hmembers : h.members = m :: rest := by
      rw [he] at hslot
      split at hslot
      · rw [modifyEntry_frame] at hslot
        exact (congrArg Grant.members (GrantSlot.active.inj hslot)).symm
      · exact (congrArg Grant.members (GrantSlot.active.inj hslot)).symm
    rw [hmembers, ← hfilter]
    simp

theorem removeEntry_of_member {i : SlotIx} {e : Entry} (hs : e.service = .granted ∨ e.service = .riding) (u : Bn24) :
    removeEntry i e u = setSlot i none (memberLeaves { slot := i, key := e.key } u) := by
  unfold removeEntry notifyRemoval
  obtain h | h := hs <;> simp only [h]

/-- The removal of a member, and what of the unit it leaves as it was. -/
theorem removeEntry_keeps {i : SlotIx} {e : Entry} (hs : e.service = .granted ∨ e.service = .riding) (u : Bn24) :
    (removeEntry i e u).table.recent = u.table.recent ∧ (removeEntry i e u).handler = u.handler
      ∧ (removeEntry i e u).localTime = u.localTime ∧ (removeEntry i e u).loader = u.loader
      ∧ (∀ c, c ≠ .callsOffered → counterOf c (removeEntry i e u) = counterOf c u)
      ∧ entryIn (removeEntry i e u) i = none
      ∧ ∀ g, (removeEntry i e u).arbiter.slot = .active g → { slot := i, key := e.key } ∉ g.members := by
  obtain ⟨hrecent, hhandler, hnow⟩ := memberLeaves_keeps { slot := i, key := e.key } u
  obtain ⟨hloader, hcounter⟩ := memberLeaves_counts { slot := i, key := e.key } u
  rw [removeEntry_of_member hs]
  exact ⟨hrecent, hhandler, hnow, hloader, hcounter, by simp, fun g hg => memberLeaves_not_member hg⟩

/-- What a command that takes a member out of the table in a departure makes of the unit (R12, R20, R21). -/
def departed (u v : Bn24) (k : Key) (sent : List HandlerRequest) : Bn24 :=
  { v with table.recent := recentWith u k, handler.requests := u.handler.requests ++ sent }

section

variable {s : State} {p : PointIx} {k : Key} {cls : Fin 4} {late : Int} {rq : List TableRequest} {ib : List DetectionMessage}
  {r : PointRecord} {i : SlotIx} {e : Entry}

theorem exec_cancel_member (ht : TakesDetection s (.cancel k) rq ib) (he : HoldsKey s.unit k i e)
    (hservice : e.service = .granted ∨ e.service = .riding) :
    exec .cancel s = .next { s with unit := departed s.unit (removeEntry i e (tookDetection s.unit rq ib)) k [.withdraw k] } := by
  obtain ⟨hrecent, hhandler, hnow, -⟩ := removeEntry_keeps (i := i) hservice (tookDetection s.unit rq ib)
  rw [exec_cancel ht, handleCancel_held (u := tookDetection s.unit rq ib) he, addDeparture_took s.unit _ k hrecent hnow]
  simp only [sendHandler, departed, hhandler]
  rfl

theorem exec_checkOut_member (ht : TakesDetection s (.checkOut p k cls late) rq ib) (hr : pointRecord s.unit p = some r)
    (hlive : ∀ d ∈ liveRecent s.unit, d.key ≠ k) (he : HoldsKey s.unit k i e)
    (hservice : e.service = .granted ∨ e.service = .riding) :
    ∃ sent, exec .checkOut s = .next { s with unit := departed s.unit (removeEntry i e (tookDetection s.unit rq ib)) k sent }
      ∧ (ReportsOnward s.unit r.approach → sent = [.passage
          { key := k, routeClass := cls, lateness := late, chain := if e.served = true then min 15 (e.chain + 1) else 0
            grade := e.grade, approach := r.approach, checkOut := s.unit.localTime }])
      ∧ (¬ ReportsOnward s.unit r.approach → sent = []) := by
  obtain ⟨hrecent, hhandler, hnow, hloader, -⟩ := removeEntry_keeps (i := i) hservice (tookDetection s.unit rq ib)
  obtain ⟨sent, hsent, honward, hnot⟩ := requestPassage_of (u := s.unit)
    { key := k, routeClass := cls, lateness := late, chain := sentChain e, grade := e.grade, approach := r.approach
      checkOut := s.unit.localTime } (v := addDeparture k (removeEntry i e (tookDetection s.unit rq ib))) hloader
  refine ⟨sent, ?_, honward, hnot⟩
  rw [exec_checkOut ht, handleCheckOut_held (u := tookDetection s.unit rq ib) hr hlive he]
  refine congrArg (fun v => Host.Outcome.next { s with unit := v }) (hsent.trans ?_)
  rw [addDeparture_took s.unit _ k hrecent hnow]
  simp only [departed, hhandler]
  rfl

end

/-- Settles O24: an entry outside a grant by `removeEntry_outside_grant`, a member by `exec_checkOut_member`. -/
theorem checkOutsAreReported : Obligations.CheckOutsAreReported := by
  unfold Obligations.CheckOutsAreReported
  refine ⟨fun s p k cls late rq ib r i e ht hr hlive he hservice => ?_, fun s p k cls late rq ib r ht hr hlive hnone => ?_,
    fun s p k cls late rq ib r i e g ht hr hlive he hservice hg => ?_⟩
  · obtain ⟨sent, hsent, honward, hnot⟩ := requestPassage_of (u := s.unit)
      { key := k, routeClass := cls, lateness := late, chain := sentChain e, grade := e.grade, approach := r.approach
        checkOut := s.unit.localTime } (v := addDeparture k (removeEntry i e (tookDetection s.unit rq ib)))
      (by rw [removeEntry_outside_grant _ i e hservice]; rfl)
    refine ⟨sent, ?_, honward, hnot⟩
    rw [exec_checkOut ht, handleCheckOut_held (u := tookDetection s.unit rq ib) hr hlive he]
    refine congrArg (fun v => Host.Outcome.next { s with unit := v }) (hsent.trans ?_)
    rw [removeEntry_outside_grant _ i e hservice, addDeparture_took s.unit]
    · rfl
    · rfl
    · rfl
  · obtain ⟨sent, hsent, honward, hnot⟩ := requestPassage_of (u := s.unit)
      { key := k, routeClass := cls, lateness := late, chain := 0, grade := gradeOf s.unit cls late 0, approach := r.approach
        checkOut := s.unit.localTime } (v := addDeparture k (count .checkoutUnmatched (tookDetection s.unit rq ib))) rfl
    refine ⟨sent, ?_, honward, hnot⟩
    rw [exec_checkOut ht, handleCheckOut_unmatched (u := tookDetection s.unit rq ib) hr hlive hnone]
    refine congrArg (fun v => Host.Outcome.next { s with unit := v }) (hsent.trans ?_)
    rw [addDeparture_took s.unit (count .checkoutUnmatched (tookDetection s.unit rq ib)) k rfl rfl]
    rfl
  · obtain rfl := he.2.1
    obtain ⟨-, -, -, -, -, hempty, hmember⟩ := removeEntry_keeps (i := i) hservice (tookDetection s.unit rq ib)
    obtain ⟨sent, hexec, honward, hnot⟩ := exec_checkOut_member ht hr hlive he hservice
    exact ⟨_, sent, hexec, hempty, rfl, rfl, hmember, honward, hnot⟩

/-! ### Invalidations and timers -/

theorem handleInvalidation_none {u : Bn24} {k : Key} (h : NoEntry u k) : handleInvalidation k u = u := by
  simp only [handleInvalidation, (findKey_eq_none u k).mpr h]

theorem handleInvalidation_held {u : Bn24} {k : Key} {i : SlotIx} {e : Entry} (he : HoldsKey u k i e) :
    handleInvalidation k u = if e.confirmation = .confirmed then u else removeEntry i e (count .forecastInvalidated u) := by
  simp only [handleInvalidation, findKey_of_holds u k i e he, he.1]
  cases e.confirmation <;> rfl

/-- Settles O27: `handleInvalidation` with and without an entry. -/
theorem invalidationRemovesForecasts : Obligations.InvalidationRemovesForecasts := by
  unfold Obligations.InvalidationRemovesForecasts
  intro s k rq hs hrequests taken removed
  have hexec : exec .invalidationRequest s = .next { s with unit := handleInvalidation k taken } := exec_invalidationRequest hs hrequests
  rw [hexec]
  refine ⟨fun hnone => ?_, fun i e he => ?_⟩
  · rw [handleInvalidation_none (show NoEntry taken k from hnone)]
  · rw [handleInvalidation_held (show HoldsKey taken k i e from he)]
    refine ⟨fun hc => by rw [if_pos hc], fun hf hservice => ?_, fun hf hservice => ?_⟩
    · rw [if_neg (by simp [hf]), removeEntry_outside_grant _ i e hservice]
      rfl
    · obtain rfl := he.2.1
      obtain ⟨hrecent, hhandler, -, -, hcounter, hempty, hmember⟩ :=
        removeEntry_keeps (i := i) hservice (count .forecastInvalidated taken)
      refine ⟨_, rfl, ?_⟩
      rw [if_neg (by simp [hf])]
      refine ⟨hempty, hrecent, hhandler, (hcounter .forecastInvalidated nofun).trans ?_, hmember⟩
      rw [counterOf_count, if_pos rfl]
      rfl

/-- What an expiry removes (R25 to R27). -/
theorem expiry_removes {s : State} {c : Instr} {counter : Counter} {i : SlotIx} {e : Entry} (hcounter : counter ≠ .callsOffered)
    (h : exec c s = .next { s with unit := removeEntry i e (count counter s.unit) }) :
    (e.service = .waiting ∨ e.service = .armed ∨ e.service = .offered →
      exec c s = .next { s with unit := count counter (
                                  { s.unit with
                                    table.slots := s.unit.table.slots.set i none
                                    arbiter.slot :=
                                      if e.service = .offered then abandoned s.unit.arbiter.slot else s.unit.arbiter.slot }) })
    ∧ (∀ g : Grant, e.service = .granted ∨ e.service = .riding → s.unit.arbiter.slot = .active g →
        ∃ t : State, exec c s = .next t ∧ entryIn t.unit i = none ∧ t.unit.table.recent = s.unit.table.recent
          ∧ t.unit.handler = s.unit.handler ∧ counterOf counter t.unit = satInc (counterOf counter s.unit)
          ∧ ∀ h : Grant, t.unit.arbiter.slot = .active h → { slot := i, key := e.key } ∉ h.members) := by
  refine ⟨fun hservice => ?_, fun g hservice _ => ?_⟩
  · rw [h, removeEntry_outside_grant _ i e hservice]
    rfl
  · obtain ⟨hrecent, hhandler, -, -, hcounters, hempty, hmember⟩ := removeEntry_keeps (i := i) hservice (count counter s.unit)
    refine ⟨_, h, hempty, hrecent, hhandler, (hcounters _ hcounter).trans ?_, hmember⟩
    rw [counterOf_count, if_pos rfl]

section

variable {s : State} {i : SlotIx} {e : Entry}

theorem exec_entryExpiry (hs : Active s) (he : entryIn s.unit i = some e) : exec (.entryExpiry i) s =
    .next { s with unit := if windowExpired s.unit e then removeEntry i e (count (expiryCounter e) s.unit) else s.unit } := by
  refine (exec_act hs rfl).trans ?_
  simp only [he]

theorem exec_untimedExpiry (hs : Active s) (he : entryIn s.unit i = some e) : exec (.untimedExpiry i) s =
    .next { s with unit := if untimedExpired s.unit e then removeEntry i e (count .forecastUnconfirmed s.unit) else s.unit } := by
  refine (exec_act hs rfl).trans ?_
  simp only [he]

end

theorem untimedExpired_iff (u : Bn24) (e : Entry) : untimedExpired u e = true ↔ e.confirmation = .forecast ∧ e.window = none
    ∧ (u.loader.inForce.params.untimedLife : Int) < age u.localTime e.updated := by
  rw [untimedExpired, Bool.and_eq_true, Bool.and_eq_true, decide_eq_true_iff, decide_eq_true_iff, Option.isNone_iff_eq_none,
    and_assoc]
  rfl

/-- Settles O28: each timer's test, and `expiry_removes` past it. -/
theorem tableTimersRemoveWhatHasExpired : Obligations.TableTimersRemoveWhatHasExpired := by
  unfold Obligations.TableTimersRemoveWhatHasExpired
  refine ⟨fun s i e hs he => ?_, fun s i hs he => ⟨exec_idle hs rfl (by simp only [he]), exec_idle hs rfl (by simp only [he])⟩,
    fun s hs => ?_⟩
  · intro removed expires
    refine ⟨fun w hw => ⟨fun hlate => ⟨fun hc => ?_, fun hf => ?_⟩, fun hearly => ?_, ?_⟩, fun hw hf => ⟨fun hold => ?_,
      fun hyoung => ?_, ?_⟩⟩
    · refine expiry_removes (counter := .busMissed) nofun ?_
      rw [exec_entryExpiry hs he, if_pos (by simpa [windowExpired, paramsOf, Option.mem_def.mp hw] using hlate), expiryCounter, hc]
    · refine expiry_removes (counter := .forecastUnconfirmed) nofun ?_
      rw [exec_entryExpiry hs he, if_pos (by simpa [windowExpired, paramsOf, Option.mem_def.mp hw] using hlate), expiryCounter, hf]
    · rw [exec_entryExpiry hs he, if_neg (by simpa [windowExpired, paramsOf, Option.mem_def.mp hw] using hearly)]
    · rw [exec_untimedExpiry hs he, if_neg (by simp [untimedExpired, Option.mem_def.mp hw])]
    · refine expiry_removes (counter := .forecastUnconfirmed) nofun ?_
      rw [exec_untimedExpiry hs he, if_pos ((untimedExpired_iff _ e).mpr ⟨hf, hw, hold⟩)]
    · rw [exec_untimedExpiry hs he, if_neg fun h => Int.not_lt.mpr hyoung ((untimedExpired_iff _ e).mp h).2.2]
    · rw [exec_entryExpiry hs he, if_neg (by simp [windowExpired, hw])]
  · refine (exec_act hs rfl).trans ?_
    rw [purgeRecent_eq]

/-! ### Members that leave the grant -/

/-- Settles O37: `removeEntry_member` for the unit from which each command removes the member. -/
theorem membersLeaveTheGrant : Obligations.MembersLeaveTheGrant := by
  unfold Obligations.MembersLeaveTheGrant
  intro s i e g hs he hservice hg leaves taken departs
  have hleaves (base : Bn24) (hrun : base.loader.run = .running) (hslot : base.arbiter.slot = .active g)
      (hslots : base.table.slots = s.unit.table.slots) : leaves base (removeEntry i e base) := by
    have h := removeEntry_member base g i e (isRunning_of hrun) hslot ((entryIn_congr hslots i).trans he.1) hservice
    have hevals : grantEvaluations g base = grantEvaluations g s.unit := evaluationsOf_congr _ (entryIn_congr hslots)
    rw [hevals] at h
    exact h
  refine ⟨fun rq ib ht => ⟨_, hleaves (taken rq ib) hs.2 hg rfl, exec_cancel_member ht he hservice⟩,
    fun p cls late rq ib r ht hr hlive => ?_,
    fun rq hrequests hf => ⟨_, hleaves (count .forecastInvalidated { s.unit with table.requests := rq }) hs.2 hg rfl, ?_⟩,
    fun w hw hlate => ⟨_,
      hleaves (count (if e.confirmation = .confirmed then .busMissed else .forecastUnconfirmed) s.unit) hs.2 hg rfl, ?_⟩,
    fun hw hf hold => ⟨_, hleaves (count .forecastUnconfirmed s.unit) hs.2 hg rfl, ?_⟩⟩
  · obtain ⟨sent, hexec, hreport⟩ := exec_checkOut_member ht hr hlive he hservice
    exact ⟨_, sent, hleaves (taken rq ib) hs.2 hg rfl, hexec, hreport⟩
  · rw [exec_invalidationRequest hs.1 hrequests, handleInvalidation_held (u := { s.unit with table.requests := rq }) he,
      if_neg (by simp [hf])]
  · rw [exec_entryExpiry hs.1 he.1, if_pos (by simpa [windowExpired, paramsOf, Option.mem_def.mp hw] using hlate), expiryCounter]
    cases e.confirmation <;> rfl
  · rw [exec_untimedExpiry hs.1 he.1, if_pos ((untimedExpired_iff _ e).mpr ⟨hf, hw, hold⟩)]

/-! ### Forecast requests -/

section

variable {u : Bn24} {f : ForecastRequest} {w : Option Window} {q : Option Quality} {g : Nat}

theorem heldConfirmed_of_holds {k : Key} {i : SlotIx} {e : Entry} (he : HoldsKey u k i e) :
    heldConfirmed u k = decide (e.confirmation = .confirmed) := by
  simp only [heldConfirmed, findKey_of_holds u k i e he, he.1]

/-- No CONFIRMED entry holds a key whose one entry is not. -/
theorem heldConfirmed_eq_false {k : Key} (h : ∀ i e, HoldsKey u k i e → e.confirmation = .forecast) (hkeys : KeysOk u) :
    heldConfirmed u k = false := by
  unfold heldConfirmed
  cases hfind : findKey u k with
  | none => rfl
  | some i =>
    obtain ⟨e, he, hkey⟩ := findKey_eq_some u k i hfind
    have hholds : HoldsKey u k i e := ⟨he, hkey, fun j f hf hfk => hkeys.1 j i f hf e he (hfk.trans hkey.symm)⟩
    simp [he, h i e hholds]

/-- A request that is neither late, nor of a CONFIRMED entry's key, nor stale is applied (R22). -/
theorem handleForecast_applied (hlive : ∀ d ∈ u.table.recent, d.key ≠ f.key) (hheld : heldConfirmed u f.key = false)
    (h : (w = none ∧ q = none ∧ f.result = .untimed g) ∨ (∃ w' q', w = some w' ∧ q = some q' ∧ f.result = .timed w' q' g)) :
    handleForecast f u = applyForecast f w q g u := by
  unfold handleForecast
  rw [if_neg (by simp [inRecent_eq_false u f.key hlive]), if_neg (by simp [hheld])]
  obtain ⟨rfl, rfl, hr⟩ | ⟨w', q', rfl, rfl, hr⟩ := h <;> simp only [hr]

theorem applyForecast_held {i : SlotIx} {e : Entry} (he : HoldsKey u f.key i e) (hc : e.confirmation = .forecast) :
    applyForecast f w q g u = updateForecast i e (reforecast u e f w q g) u := by
  simp only [applyForecast, findKey_of_holds u f.key i e he, he.1, hc]

theorem applyForecast_new (h : NoEntry u f.key) : applyForecast f w q g u = allocateForecast (newForecast u f w q g) u := by
  simp only [applyForecast, (findKey_eq_none u f.key).mpr h]

end

/-- Settles O26: the cases of R22 in their order; an entry outside a grant by `rewriteEntry_outside`, a member by
`rewriteEntry_member`, a new entry by `allocateForecast`. -/
theorem forecastRequestsByTheFirstCase : Obligations.ForecastRequestsByTheFirstCase := by
  unfold Obligations.ForecastRequestsByTheFirstCase
  intro s f rq w q g hs hrequests hlive taken rewritten back created writes evaluates holds
  have hexec : exec .forecastRequest s = .next { s with unit := handleForecast f taken } := exec_forecastRequest hs.1 hrequests
  have hlate : inRecent taken f.key = false := inRecent_eq_false taken f.key hlive
  refine ⟨fun i e he hc => ?_, fun hforecast hkeys hstale => ?_, fun i e he hc hholds => ?_, fun hnone hholds => ?_⟩
  · have hheld : heldConfirmed taken f.key = true := (heldConfirmed_of_holds (u := taken) he).trans (by simp [hc])
    rw [hexec, handleForecast, if_neg (by simp [hlate]), if_pos hheld]
  · have hheld : heldConfirmed taken f.key = false := heldConfirmed_eq_false (u := s.unit) hforecast hkeys
    rw [hexec, handleForecast, if_neg (by simp [hlate]), if_neg (by simp [hheld])]
    simp only [hstale]
  · have hheld : heldConfirmed taken f.key = false := (heldConfirmed_of_holds (u := taken) he).trans (by simp [hc])
    generalize hstand : (decide (f.approach = e.approach) && callStands taken (rewritten e)) = stand
    have hupdate : exec .forecastRequest s = .next { s with unit := rewriteEntry i e (rewritten e) stand taken } := by
      rw [hexec, handleForecast_applied (u := taken) hlive hheld hholds, applyForecast_held (u := taken) he hc, ← hstand]
      rfl
    have hkey : (rewritten e).key = f.key := he.2.1
    refine ⟨fun hservice => ?_, fun hservice => ?_, fun hservice ha hstands => ?_, fun hservice hnot => ?_, fun hservice h hslot => ?_⟩
    · rw [hupdate, rewriteEntry_outside (u := taken) hs.2 _ _ _ _ (.inl hservice) (by simp [hservice]), hkey]
      simp only [hservice, reduceCtorEq, false_and, or_false, if_false]
      rfl
    · rw [hupdate, rewriteEntry_outside (u := taken) hs.2 _ _ _ _ (.inr (.inl hservice)) (by simp [hservice]), hkey]
      simp only [hservice, reduceCtorEq, false_or, true_and, if_false]
      rfl
    · have hcall : callStands taken (rewritten e) = true := (callStands_iff _ _).mpr hstands
      rw [hupdate, rewriteEntry, ← hstand]
      simp only [hservice, hcall, ha, decide_true, Bool.and_true, if_true]
      rfl
    · have hfalls : stand = false := by
        rw [← hstand, Bool.and_eq_false_iff, decide_eq_false_iff_not, ← Bool.not_eq_true, callStands_iff]
        exact hnot.imp_left fun h h' => h h'.symm
      rw [hupdate, rewriteEntry_outside (u := taken) hs.2 _ _ _ _ (.inr (.inr hservice)) (fun _ => hfalls), hkey]
      simp only [hservice, true_or, if_true]
      rfl
    · obtain ⟨hstays, hleaves⟩ := rewriteEntry_member taken h i e (rewritten e) stand (isRunning_of hs.2) hslot he.1 rfl hservice
      refine ⟨fun ha hfits => ?_, fun hnot => ⟨_, hupdate, hleaves (hnot.imp_left fun h h' => h h'.symm)⟩⟩
      rw [hupdate, hstays ha.symm hfits]
      rfl
  · have hheld : heldConfirmed taken f.key = false := by
      simp only [heldConfirmed, (findKey_eq_none taken f.key).mpr hnone]
    have hplace : exec .forecastRequest s = .next { s with unit := allocateForecast created taken } := by
      rw [hexec, handleForecast_applied (u := taken) hlive hheld hholds, applyForecast_new (u := taken) hnone]
      rfl
    rw [hplace, allocateForecast]
    refine ⟨fun i hi => ?_, fun hfull => ?_⟩
    · simp only [show lowestEmpty taken = some i from (lowestEmpty_eq_some _ i).mpr hi]
      rw [placeEntry_running (u := taken) hs.2]
    · simp only [show lowestEmpty taken = none from (lowestEmpty_eq_none _).mpr hfull]
      refine ⟨fun v hv => ?_, fun hno => ?_⟩
      · simp only [show forecastVictim taken = some v from (forecastVictim_eq_some _ v).mpr hv]
        rw [placeEntry_victim (u := taken) hs.2]
      · simp only [show forecastVictim taken = none from forecastVictim_eq_none _ hno]

end Sys2Proof.Machine
end

section
/-! The Service Evaluator: what an evaluation decides, writes and passes on to the Grant Arbiter (chapter 3), the arbiter's selection
and the riders it admits (sections 4.2, 4.4). -/

open Sys2Proof Sys2Proof.Machine

namespace Sys2Proof.Machine

/-! ### Timing -/

section

variable {u : Bn24} {a : ApproachIx} {w : Window} {v : PhaseRecord} {r : ApproachRecord}

/-- The needed extension of a window that ends after the green, as R63 computes it. -/
def extensionNeed (u : Bn24) (w : Window) (v : PhaseRecord) : Nat :=
  ((timeDiff w.stop (greenEnd u v) + u.loader.inForce.params.margin).toNat + 9) / 10 * 10

/-- The needed advance for a window that starts before the next green, as R64 computes it. -/
def advanceNeed (u : Bn24) (w : Window) (v : PhaseRecord) : Nat := ((-timeDiff w.start (nextGreen u v)).toNat + 9) / 10 * 10

/-- The timing outcome in GREEN (R63). -/
theorem timingVerdict_green (hr : approachRecord u a = some r) (hv : v.state = .green) :
    timingVerdict u a w v =
      if 0 < timeDiff w.stop (greenEnd u v) then
        if extensionNeed u w v ≤ r.eMax then .call { kind := .extend, amount := extensionNeed u w v, isPartial := false } else .wait
      else .rides := by
  simp only [timingVerdict, hv, greenVerdict, later, decide_eq_true_eq]
  by_cases hlate : 0 < timeDiff w.stop (greenEnd u v)
  · have hneed : neededExtension u w.stop (greenEnd u v) = extensionNeed u w v := by
      simp only [neededExtension, roundUpTen, ceilDiv, paramsOf, extensionNeed]
      congr 2
      omega
    rw [if_pos hlate, if_pos hlate, hneed, eMaxOf, hr]
  · rw [if_neg hlate, if_neg hlate]

/-- The timing outcome in AMBER and RED (R64). -/
theorem timingVerdict_red (hr : approachRecord u a = some r) (hv : v.state ≠ .green) (hdark : v.state ≠ .dark) :
    timingVerdict u a w v =
      if timeDiff w.start (nextGreen u v) < 0 then
        if advanceNeed u w v ≤ r.tMax then .call { kind := .early, amount := advanceNeed u w v, isPartial := false }
        else if 10 ≤ r.tMax then .call { kind := .early, amount := r.tMax, isPartial := true } else .wait
      else .rides := by
  have hred : timingVerdict u a w v = redVerdict u a w v := by
    unfold timingVerdict
    cases hs : v.state with
    | green => exact absurd hs hv
    | amber => rfl
    | red => rfl
    | dark => exact absurd hs hdark
  have hneed : neededAdvance w.start (nextGreen u v) = advanceNeed u w v := rfl
  simp only [hred, redVerdict, earlier, decide_eq_true_eq, hneed, tMaxOf, hr]

end

section

variable {u : Bn24} {e : Entry} {v : PhaseRecord}

theorem verdictOf_held (hv : phaseOf u e.approach = some v) (h : HeldBack u e v) : verdictOf u e = .hold := by
  simp only [verdictOf, hv, (holdTest_iff u e v hv).mpr h, if_true]

/-- An entry that is not held is decided by the timing of its window (R63, R64). -/
theorem verdictOf_timing (hv : phaseOf u e.approach = some v) (h : ¬ HeldBack u e v) {w : Window} (hw : e.window = some w) :
    verdictOf u e = timingVerdict u e.approach w v := by
  have hno : ¬ holdTest u e v = true := fun hh => h ((holdTest_iff u e v hv).mp hh)
  simp only [verdictOf, hv, if_neg hno, hw]

end

/-- A call decides by the timing of the window, in an approach whose service is enabled. -/
theorem verdictOf_call {u : Bn24} {e : Entry} {d : Decision} (h : verdictOf u e = .call d) :
    ∃ (v : PhaseRecord) (w : Window) (r : ApproachRecord), phaseOf u e.approach = some v ∧ e.window = some w
      ∧ approachRecord u e.approach = some r ∧ ¬ HeldBack u e v ∧ timingVerdict u e.approach w v = .call d := by
  obtain ⟨v, w, r, hv, hw, hr, hheld, -⟩ := (verdictOf_call_iff u e d.kind d.amount).mp ⟨d.isPartial, h⟩
  exact ⟨v, w, r, hv, hw, hr, hheld, (verdictOf_timing hv hheld hw).symm.trans h⟩

/-- Settles O30: the two timing outcomes that are calls. -/
theorem decidedAmountsAreWithinTheLimits : Obligations.DecidedAmountsAreWithinTheLimits := by
  unfold Obligations.DecidedAmountsAreWithinTheLimits
  intro u e d hten hcall
  obtain ⟨v, w, r, hv, hw, hr, hheld, htiming⟩ := verdictOf_call hcall
  have henabled : r.enabled = true := by
    by_contra hoff
    refine hheld (.inr (.inl fun r' hr' => ?_))
    rw [hr] at hr'
    obtain rfl := Option.some.inj hr'
    simpa using hoff
  have hgrade : 1 ≤ e.grade := Nat.pos_of_ne_zero fun h => hheld (.inl h)
  have hdark : v.state ≠ .dark := fun h => hheld (.inr (.inr (.inl h)))
  refine ⟨r, hr, henabled, hgrade, ?_⟩
  by_cases hgreen : v.state = .green
  · rw [timingVerdict_green hr hgreen] at htiming
    split at htiming
    next hlate =>
      split at htiming
      next hmax =>
        obtain rfl := Verdict.call.inj htiming
        have hpos : 10 ≤ extensionNeed u w v ∧ extensionNeed u w v % 10 = 0 := by unfold extensionNeed; omega
        exact ⟨hpos.2, hpos.1, hmax, nofun⟩
      · cases htiming
    · cases htiming
  · rw [timingVerdict_red hr hgreen hdark] at htiming
    split at htiming
    next hearly =>
      split at htiming
      next hmax =>
        obtain rfl := Verdict.call.inj htiming
        have hpos : 10 ≤ advanceNeed u w v ∧ advanceNeed u w v % 10 = 0 := by unfold advanceNeed; omega
        exact ⟨hpos.2, hpos.1, hmax, nofun⟩
      · split at htiming
        next hmin =>
          obtain rfl := Verdict.call.inj htiming
          exact ⟨hten _ r hr, hmin, Nat.le_refl _, fun _ => ⟨rfl, rfl⟩⟩
        · cases htiming
    · cases htiming

/-! ### Declined marks -/

section

variable {u : Bn24} {e : Entry} {v : PhaseRecord}

/-- The entry that an evaluation tests: its declined mark is kept at the view's own class only (R61). -/
def evaluated (u : Bn24) (e : Entry) : Entry := if markCleared u e then { e with declined := none } else e

theorem evaluated_noView (hv : phaseOf u e.approach = none) : evaluated u e = e := by
  have hno : markCleared u e = false := by
    unfold markCleared
    rw [hv]
    cases e.declined <;> rfl
  rw [evaluated, hno]
  rfl

theorem evaluated_view (hv : phaseOf u e.approach = some v) :
    evaluated u e = { e with declined := if e.declined = some (classOf v.state) then e.declined else none } := by
  unfold evaluated markCleared
  rw [hv]
  cases hd : e.declined with
  | none => rw [← hd]; simp
  | some m =>
    by_cases hm : classOf v.state = m
    · simp [hm, ← hd]
    · simp [hm, Ne.symm hm]

/-- What holds an entry back is not changed by the clearing of a mark of another class. -/
theorem heldBack_evaluated (hv : phaseOf u e.approach = some v) : HeldBack u (evaluated u e) v ↔ HeldBack u e v := by
  rw [evaluated_view hv]
  by_cases hm : e.declined = some (classOf v.state)
  · simp only [if_pos hm]
  · simp [HeldBack, hm]

theorem evaluated_fields (u : Bn24) (e : Entry) : (evaluated u e).window = e.window ∧ (evaluated u e).approach = e.approach
    ∧ (evaluated u e).grade = e.grade ∧ (evaluated u e).key = e.key ∧ (evaluated u e).service = e.service := by
  unfold evaluated
  split <;> exact ⟨rfl, rfl, rfl, rfl, rfl⟩

theorem writtenEntry_eq (u : Bn24) (e : Entry) : writtenEntry u e = match verdictOf u (evaluated u e) with
    | .call d => { evaluated u e with service := .armed, decision := some d }
    | .hold => toWaiting (evaluated u e)
    | .rides => toWaiting (evaluated u e)
    | .wait => toWaiting (evaluated u e) := rfl

theorem fitsGrant_writtenEntry (x u : Bn24) (g : Grant) (holder : Bool) (e : Entry) :
    fitsGrant x g holder (writtenEntry u e) = fitsGrant x g holder e := by
  obtain ⟨hw, ha, hg, -⟩ := evaluated_fields u e
  have hsame (f : Entry) (hfw : f.window = e.window) (hfa : f.approach = e.approach) (hfg : f.grade = e.grade) :
      fitsGrant x g holder f = fitsGrant x g holder e := by simp only [fitsGrant, hfw, hfa, hfg]
  rw [writtenEntry_eq]
  split <;> exact hsame _ hw ha hg

end

/-! ### The write of an evaluation -/

/-- The rider that an evaluation which does not hold the entry proposes (R69). -/
def proposedRider (u : Bn24) (r : EntryRef) (e : Entry) : List EntryRef :=
  match u.arbiter.slot with
  | .active g => if g.members.length < 4 ∧ fitsGrant u g false e = true then [r] else []
  | .free => []
  | .offered _ => []

section

variable {s : State} {r : EntryRef} {e : Entry} {rq : List TableRequest}

theorem exec_evaluation (hs : Active s) (hrequests : s.unit.table.requests = .evaluation r :: rq) :
    exec .evaluation s = .next { s with unit := applyEvaluation r { s.unit with table.requests := rq } } := by
  refine (exec_act hs rfl).trans ?_
  simp only [hrequests, popRequest, List.tail_cons]

theorem applyEvaluation_at {u : Bn24} (he : entryIn u r.slot = some e) (hk : e.key = r.key)
    (hservice : e.service = .waiting ∨ e.service = .armed) :
    applyEvaluation r u = proposeJoin r (verdictOf u (evaluated u e)) (writtenEntry u e) (writeEvaluation r e u) := by
  have hat : entryAt u r = some e := (entryAt_eq_some u r e).mpr ⟨he, hk⟩
  simp only [applyEvaluation, hat, (evaluable_iff e).mpr hservice, if_true]
  rfl

/-- A selection has no effect while the slot is taken (R78). -/
theorem selection_taken {u : Bn24} (h : u.arbiter.slot ≠ .free) : selection u = u := if_neg fun hs => h hs.1

theorem writeEvaluation_quiet {u : Bn24}
    (h : u.arbiter.slot ≠ .free ∨ e.service = .armed ∨ (writtenEntry u e).service ≠ .armed) :
    writeEvaluation r e u = setSlot r.slot (some (writtenEntry u e)) u := by
  simp only [writeEvaluation]
  split
  next harms =>
    obtain ⟨hwaiting, harmed⟩ := harms
    obtain h | h | h := h
    · exact selection_taken h
    · rw [hwaiting] at h; cases h
    · exact absurd harmed h
  · rfl

theorem joinable_active {u : Bn24} {g : Grant} {e : Entry} (hg : u.arbiter.slot = .active g) :
    joinable u e = true ↔ g.members.length < 4 ∧ fitsGrant u g false e = true := by
  simp only [joinable, hg, Bool.and_eq_true, decide_eq_true_eq]
  rfl

theorem proposedRider_eq (u : Bn24) (r : EntryRef) (e : Entry) : proposedRider u r e = if joinable u e then [r] else [] := by
  unfold proposedRider
  cases hslot : u.arbiter.slot with
  | free => simp [joinable, hslot]
  | offered o => simp [joinable, hslot]
  | active g => simp only [joinable_active hslot]

/-- The join test reads of the table only the entry's forecast (R68, R69). -/
theorem joinable_written {u : Bn24} (x : Option Entry) : joinable (setSlot r.slot x u) (writtenEntry u e) = joinable u e := by
  have hfits (g : Grant) : fitsGrant (setSlot r.slot x u) g false (writtenEntry u e) = fitsGrant u g false e :=
    fitsGrant_writtenEntry u u g false e
  unfold joinable
  rw [setSlot_arbiter]
  cases u.arbiter.slot with
  | free => rfl
  | offered o => rfl
  | active g => simp only [hfits]

theorem proposeJoin_written {u : Bn24} (x : Option Entry) (v : Verdict) :
    proposeJoin r v (writtenEntry u e) (setSlot r.slot x u) =
      { setSlot r.slot x u with arbiter.joins := u.arbiter.joins ++ (if v = .hold then [] else proposedRider u r e) } := by
  have same : setSlot r.slot x u = { setSlot r.slot x u with arbiter.joins := u.arbiter.joins ++ [] } := by
    rw [List.append_nil]
    rfl
  rw [proposeJoin, joinable_written, proposedRider_eq]
  by_cases hv : v = .hold
  · rw [if_neg fun h => h.1 hv, if_pos hv]
    exact same
  · rw [if_neg hv]
    by_cases hjoins : joinable u e = true
    · rw [if_pos ⟨hv, hjoins⟩, if_pos hjoins]
      rfl
    · rw [if_neg fun h => hjoins h.2, if_neg hjoins]
      exact same

/-- An evaluation that brings no selection: the entry is written, and a rider proposed (R67, R69). -/
theorem exec_evaluation_quiet (hs : Active s) (hrequests : s.unit.table.requests = .evaluation r :: rq)
    (he : entryIn s.unit r.slot = some e) (hk : e.key = r.key) (hservice : e.service = .waiting ∨ e.service = .armed)
    (hquiet : s.unit.arbiter.slot ≠ .free ∨ e.service = .armed ∨ (writtenEntry s.unit e).service ≠ .armed) :
    exec .evaluation s = .next { s with
      unit.table.requests := rq, unit.table.slots := s.unit.table.slots.set r.slot (some (writtenEntry s.unit e))
      unit.arbiter.joins := s.unit.arbiter.joins
        ++ (if verdictOf s.unit (evaluated s.unit e) = .hold then [] else proposedRider s.unit r e) } := by
  rw [exec_evaluation hs hrequests, applyEvaluation_at (u := { s.unit with table.requests := rq }) he hk hservice,
    writeEvaluation_quiet (u := { s.unit with table.requests := rq }) hquiet, proposeJoin_written]
  rfl

end

/-! ### The outcomes -/

section

variable {u : Bn24} {e : Entry} {v : PhaseRecord} {w : Window}

/-- The mark of an entry that is not held is cleared, if it has one. -/
theorem evaluated_free (hv : phaseOf u e.approach = some v) (h : ¬ HeldBack u e v) :
    evaluated u e = { e with declined := none } := by
  have hmark : e.declined ≠ some (classOf v.state) := fun hd =>
    h (.inr (.inr (.inr (.inr (.inr (.inr (.inr (.inr hd))))))))
  rw [evaluated_view hv, if_neg hmark]

theorem evaluated_verdict_held (hv : phaseOf u e.approach = some v) (h : HeldBack u e v) :
    verdictOf u (evaluated u e) = .hold := by
  have hview : phaseOf u (evaluated u e).approach = some v := by rw [(evaluated_fields u e).2.1, hv]
  exact verdictOf_held hview ((heldBack_evaluated hv).mpr h)

theorem evaluated_verdict_timing (hv : phaseOf u e.approach = some v) (h : ¬ HeldBack u e v) (hw : e.window = some w) :
    verdictOf u (evaluated u e) = timingVerdict u e.approach w v := by
  obtain ⟨hwindow, happroach, -⟩ := evaluated_fields u e
  have htiming := verdictOf_timing (e := evaluated u e) (by rw [happroach, hv]) (fun hh => h ((heldBack_evaluated hv).mp hh))
    (hwindow.trans hw)
  rw [htiming, happroach]

theorem writtenEntry_back (h : ∀ d, verdictOf u (evaluated u e) ≠ .call d) :
    writtenEntry u e = toWaiting (evaluated u e) := by
  rw [writtenEntry_eq]
  cases hverdict : verdictOf u (evaluated u e) with
  | call d => exact absurd hverdict (h d)
  | hold => rfl
  | rides => rfl
  | wait => rfl

theorem writtenEntry_call {d : Decision} (h : verdictOf u (evaluated u e) = .call d) :
    writtenEntry u e = { evaluated u e with service := .armed, decision := some d } := by
  rw [writtenEntry_eq, h]

end

/-- Settles O29: `exec_evaluation_quiet` with the entry that each outcome writes. -/
theorem evaluationsWriteTheirOutcome : Obligations.EvaluationsWriteTheirOutcome := by
  unfold Obligations.EvaluationsWriteTheirOutcome
  intro s i e rq hs hrequests he hservice u rider writes arms
  have back (mark : Option SignalClass) (joins : List EntryRef) (hno : ∀ d, verdictOf u (evaluated u e) ≠ .call d)
      (hmark : evaluated u e = { e with declined := mark })
      (hjoins : (if verdictOf u (evaluated u e) = .hold then [] else rider) = joins) : writes .waiting none mark joins := by
    have hwritten := writtenEntry_back hno
    refine (exec_evaluation_quiet hs hrequests he rfl hservice (.inr (.inr ?_))).trans ?_
    · rw [hwritten]
      exact nofun
    · have hproposed : (if verdictOf s.unit (evaluated s.unit e) = .hold then []
          else proposedRider s.unit { slot := i, key := e.key } e) = joins := hjoins
      rw [hwritten, hproposed, hmark]
      rfl
  have armed {d : Decision} (hcall : verdictOf u (evaluated u e) = .call d) (hmark : evaluated u e = { e with declined := none }) :
      arms d := by
    intro hquiet
    refine (exec_evaluation_quiet hs hrequests he rfl hservice (hquiet.imp_right .inl)).trans ?_
    rw [writtenEntry_call hcall, hcall, if_neg nofun, hmark]
    rfl
  refine ⟨fun hv => ?_, fun v hv => ⟨fun hheld => ?_, fun hheld w hw r hr => ?_⟩⟩
  · have hverdict : verdictOf u (evaluated u e) = .hold := by
      simp only [evaluated_noView hv, verdictOf, hv]
    refine back e.declined [] (fun d => by rw [hverdict]; exact nofun) (evaluated_noView hv) ?_
    rw [if_pos hverdict]
  · have hverdict := evaluated_verdict_held hv hheld
    refine back _ [] (fun d => by rw [hverdict]; exact nofun) (evaluated_view hv) ?_
    rw [if_pos hverdict]
  · have hmark := evaluated_free hv hheld
    have hverdict := evaluated_verdict_timing hv hheld hw
    have hdark : v.state ≠ .dark := fun h => hheld (.inr (.inr (.inl h)))
    have stays {x : Verdict} (ht : timingVerdict u e.approach w v = x) (hx : x = .rides ∨ x = .wait) :
        writes .waiting none none rider := by
      rw [ht] at hverdict
      refine back none rider (fun d => ?_) hmark ?_
      · rw [hverdict]
        obtain rfl | rfl := hx <;> exact nofun
      · rw [hverdict]
        obtain rfl | rfl := hx <;> rfl
    have calls {d : Decision} (ht : timingVerdict u e.approach w v = .call d) : arms d := armed (hverdict.trans ht) hmark
    refine ⟨fun hg hlate => ?_, fun hg hlate hmax => ?_, fun hg hlate hmax => ?_, fun hg hearly => ?_, fun hg hearly hmax => ?_,
      fun hg hearly hmax hten => ?_, fun hg hearly hzero => ?_⟩
    · exact stays ((timingVerdict_green hr hg).trans (if_neg (Int.not_lt.mpr hlate))) (.inl rfl)
    · exact calls ((timingVerdict_green hr hg).trans ((if_pos hlate).trans (if_pos hmax)))
    · exact stays ((timingVerdict_green hr hg).trans ((if_pos hlate).trans (if_neg (Nat.not_le.mpr hmax)))) (.inr rfl)
    · exact stays ((timingVerdict_red hr hg hdark).trans (if_neg (Int.not_lt.mpr hearly))) (.inl rfl)
    · exact calls ((timingVerdict_red hr hg hdark).trans ((if_pos hearly).trans (if_pos hmax)))
    · exact calls ((timingVerdict_red hr hg hdark).trans ((if_pos hearly).trans ((if_neg (Nat.not_le.mpr hmax)).trans (if_pos hten))))
    · have hneed : ¬ advanceNeed u w v ≤ r.tMax := by
        have hpos : timeDiff w.start (nextGreen u v) < 0 := hearly
        unfold advanceNeed
        omega
      exact stays ((timingVerdict_red hr hg hdark).trans ((if_pos hearly).trans ((if_neg hneed).trans (if_neg (by omega))))) (.inr rfl)

/-! ### Selection -/

section

variable {u : Bn24}

theorem selection_of_selected (hfree : u.arbiter.slot = .free) (hrun : u.loader.run = .running) (hheard : u.controller.silent = false)
    {c : Candidate} (hc : selected u = some c) : selection u = issueOffer c u := by
  rw [selection, if_pos ⟨hfree, isRunning_of hrun, hheard⟩, hc]

theorem startsEarlier_iff (a b : Option Window) :
    startsEarlier a b = true ↔ ∃ w ∈ a, ∃ x ∈ b, earlier w.start x.start = true := by
  cases a <;> cases b <;> simp [startsEarlier]

/-- Of two candidates, the one with the higher grade, then the earlier start goes before (R78). -/
theorem goesBefore_iff (a b : Candidate) : goesBefore a b = true ↔
    b.entry.grade < a.entry.grade ∨ (a.entry.grade = b.entry.grade ∧ startsEarlier a.entry.window b.entry.window = true) := by
  simp [goesBefore]

/-- A selection on a FREE slot finds an ARMED entry where there is one. -/
theorem selection_offers (hfree : u.arbiter.slot = .free) (hrun : u.loader.run = .running) (hheard : u.controller.silent = false)
    {i : SlotIx} {e : Entry} {d : Decision} (he : entryIn u i = some e) (hservice : e.service = .armed) (hd : e.decision = some d) :
    ∃ o, (selection u).arbiter.slot = .offered o := by
  have hmem : (⟨i, e, d⟩ : Candidate) ∈ candidates u := (mem_candidates u _).mpr ⟨he, hservice, hd⟩
  have hsome (l : List Candidate) (b : Candidate) : ∃ c, l.foldl chooseNext (some b) = some c := by
    induction l generalizing b with
    | nil => exact ⟨b, rfl⟩
    | cons x rest ih =>
      rw [List.foldl_cons, chooseNext]
      split
      · exact ih x
      · exact ih b
  obtain ⟨c, hc⟩ : ∃ c, selected u = some c := by
    unfold selected
    cases hl : candidates u with
    | nil => rw [hl] at hmem; cases hmem
    | cons x rest => exact hsome rest x
  obtain ⟨x, y, hf⟩ := issueOffer_frame c u
  rw [selection_of_selected hfree hrun hheard hc, hf]
  exact ⟨_, rfl⟩

end

/-- Settles O31: the choice by `foldl_chooseNext_eq_some`, the offer by `issueOffer`. -/
theorem selectionOffersTheBestEntry : Obligations.SelectionOffersTheBestEntry := by
  unfold Obligations.SelectionOffersTheBestEntry
  intro u
  refine ⟨fun hnone => ?_, fun i e d hfree hrun hheard he hservice hd hbest => ?_⟩
  · rcases selection_cases u with h | ⟨c, hc, hfree, hrun, hheard, -⟩
    · exact h
    · obtain ⟨hentry, harmed, -⟩ := selected_spec u c hc
      obtain hslot | hstopped | hsilent | hno := hnone
      · exact absurd hfree hslot
      · exact absurd ((isRunning_iff u).mp hrun) hstopped
      · rw [hsilent] at hheard; cases hheard
      · exact absurd harmed (hno c.slot c.entry hentry)
  · have hchosen : selected u = some ⟨i, e, d⟩ := by
      refine foldl_chooseNext_eq_some _ _ (candidates_ascending u) ((mem_candidates u _).mpr ⟨he, hservice, hd⟩)
        (fun x hx => ?_) none (by simp)
      obtain ⟨hxe, hxs, hxd⟩ := (mem_candidates u x).mp hx
      have hother (hne : x.slot ≠ i) := hbest x.slot x.entry hxe hxs (by simp [hxd]) hne
      refine ⟨fun hlt => (goesBefore_iff _ _).mpr ?_, fun hlt => Bool.eq_false_iff.mpr fun hbefore => ?_⟩
      · obtain hlower | ⟨hsame, ⟨-, hearlier⟩ | ⟨hgt, -⟩⟩ := hother (ne_of_lt hlt)
        · exact .inl hlower
        · exact .inr ⟨hsame.symm, (startsEarlier_iff _ _).mpr hearlier⟩
        · exact absurd hgt (lt_asymm hlt)
      · obtain hhigher | ⟨hequal, hstarts⟩ := (goesBefore_iff _ _).mp hbefore
        · obtain hlower | ⟨hsame, -⟩ := hother (ne_of_gt hlt)
          · exact absurd hhigher (Nat.lt_asymm hlower)
          · exact absurd hsame (Nat.ne_of_gt hhigher)
        · obtain hlower | ⟨-, ⟨hgt, -⟩ | ⟨-, hnot⟩⟩ := hother (ne_of_gt hlt)
          · exact absurd hequal (Nat.ne_of_lt hlower)
          · exact absurd hgt (lt_asymm hlt)
          · obtain ⟨w, hw, x', hx', hearlier⟩ := (startsEarlier_iff _ _).mp hstarts
            rw [hnot x' hx' w hw] at hearlier
            cases hearlier
    refine ⟨handLink (.call u.arbiter.nextId e.approach d.kind d.amount) (setSlot i (some { e with service := .offered })
      { u with arbiter.slot := .offered { id := u.arbiter.nextId, kind := d.kind, amount := d.amount, isPartial := d.isPartial
                                          approach := e.approach, entry := some { slot := i, key := e.key }
                                          replyEnd := u.localTime + ds Config.replyWait }
               arbiter.nextId := nextRequestId u.arbiter.nextId }),
      (selection_of_selected hfree hrun hheard hchosen).trans rfl, ?_, ?_, fun hidle => linkMessages_handLink _ _ hidle, ?_⟩
    · rw [handLink_frame]
      rfl
    · rw [handLink_frame]
      rfl
    · rw [handLink_frame]
      rfl

/-- Settles O32: the write with and without a selection, and the rider of an active grant. -/
theorem evaluationsReachTheArbiter : Obligations.EvaluationsReachTheArbiter := by
  unfold Obligations.EvaluationsReachTheArbiter
  refine ⟨fun s i e d rq hs hrequests he hmark hfree hcall => ?_, fun s r rq hs hrequests => ⟨fun hgone => ?_,
    fun e g he hk hservice hg => ?_⟩⟩
  · intro written
    obtain ⟨v, w, r, hv, hw, hr, hheld, htiming⟩ := verdictOf_call hcall
    have hverdict : verdictOf s.unit (evaluated s.unit e) = .call d := (evaluated_verdict_timing hv hheld hw).trans htiming
    have hwritten : writtenEntry s.unit e = { e with service := .armed, decision := some d, declined := none } := by
      rw [writtenEntry_call hverdict, evaluated_free hv hheld]
    have hnoRider : proposedRider s.unit { slot := i, key := e.key } e = [] := by simp [proposedRider, hfree]
    have hheard : s.unit.controller.silent = false :=
      Bool.eq_false_iff.mpr fun h => hheld (.inr (.inr (.inr (.inr (.inl h)))))
    have hrun : s.unit.loader.run = .running := by
      by_contra h
      exact hheld (.inr (.inr (.inr (.inr (.inr (.inl h))))))
    have hoffers : ∃ o : Offer, (selection written).arbiter.slot = .offered o := by
      refine selection_offers (u := written) hfree hrun hheard (i := i)
        (e := { e with service := .armed, decision := some d, declined := none }) ?_ rfl rfl
      exact (entryIn_setSlot i i _ s.unit).trans (if_pos rfl)
    refine ⟨fun hservice => ?_, fun hservice => ⟨?_, hoffers⟩⟩
    · rw [exec_evaluation_quiet hs hrequests he rfl (.inr hservice) (.inr (.inl hservice)), hnoRider, ite_self, List.append_nil, hwritten]
    · have hwrite : writeEvaluation { slot := i, key := e.key } e { s.unit with table.requests := rq } = selection written := by
        simp only [writeEvaluation, hservice, true_and]
        have hsame : writtenEntry { s.unit with table.requests := rq } e
            = { e with service := .armed, decision := some d, declined := none } := hwritten
        rw [hsame, if_pos rfl]
        rfl
      obtain ⟨o, ho⟩ := hoffers
      have hnoJoin (x : Entry) : joinable (selection written) x = false := by simp only [joinable, ho]
      rw [exec_evaluation hs hrequests, applyEvaluation_at (u := { s.unit with table.requests := rq })
          (r := { slot := i, key := e.key }) he rfl (.inl hservice), hwrite, proposeJoin, if_neg (by simp [hnoJoin])]
  · rw [exec_evaluation hs hrequests, applyEvaluation]
    cases hat : entryAt { s.unit with table.requests := rq } r with
    | none => rfl
    | some e =>
      obtain ⟨he, hk⟩ := (entryAt_eq_some _ r e).mp hat
      have hbusy : ¬ evaluable e = true := by
        rw [evaluable_iff]
        obtain h | h | h := hgone e he hk <;> simp [h]
      simp only [if_neg hbusy]
  · intro written
    have hexec := exec_evaluation_quiet hs hrequests he hk hservice (.inl (by simp [hg]))
    have hrider : proposedRider s.unit r e = if g.members.length < 4 ∧ fitsGrant s.unit g false e = true then [r] else [] := by
      simp only [proposedRider, hg]
    refine ⟨fun hverdict hroom hfits => ?_, fun hnot => ?_⟩
    · rw [hexec, hrider, if_neg (show verdictOf s.unit (evaluated s.unit e) ≠ .hold from hverdict), if_pos ⟨hroom, hfits⟩]
    · have hnone : (if verdictOf s.unit (evaluated s.unit e) = .hold then [] else proposedRider s.unit r e) = [] := by
        rw [hrider]
        obtain hhold | hfull | hmisfit := hnot
        · rw [if_pos (show verdictOf s.unit (evaluated s.unit e) = .hold from hhold)]
        · rw [if_neg (fun h : _ ∧ _ => absurd h.1 (by omega)), ite_self]
        · rw [if_neg (fun h : _ ∧ _ => by simp [hmisfit] at h), ite_self]
      rw [hexec, hnone, List.append_nil]

/-! ### Riders -/

theorem admitRider_active {u : Bn24} {r : EntryRef} {g : Grant} {e : Entry} (hg : u.arbiter.slot = .active g)
    (hat : entryAt u r = some e) (hservice : e.service = .waiting ∨ e.service = .armed) :
    admitRider r u = if g.members.length < 4 ∧ fitsGrant u g false e = true then
        setSlot r.slot (some (ridingEntry e)) (setGrant (.active { g with members := g.members ++ [r] }) u)
      else u := by
  simp only [admitRider, hg, hat, (evaluable_iff e).mpr hservice, Bool.true_and, joinable_active hg]

/-- Settles O33: the tests of `admitRider`. -/
theorem joinRequestsAdmitRiders : Obligations.JoinRequestsAdmitRiders := by
  unfold Obligations.JoinRequestsAdmitRiders
  intro s r rest hs hjoins dropped
  have hexec : exec .joinRequest s = .next { s with unit := admitRider r { s.unit with arbiter.joins := rest } } := by
    refine (exec_act hs rfl).trans ?_
    simp only [hjoins]
  have drops (h : admitRider r { s.unit with arbiter.joins := rest } = { s.unit with arbiter.joins := rest }) : dropped := by
    show exec .joinRequest s = _
    rw [hexec, h]
  refine ⟨fun hnone => drops ?_, fun hgone => drops ?_, fun g e w hg he hk hw hservice => ?_⟩
  · unfold admitRider
    split
    next g e hslot hat => exact absurd hslot (hnone g)
    · rfl
  · unfold admitRider
    split
    next g e hslot hat =>
      obtain ⟨he, hk⟩ := (entryAt_eq_some _ r e).mp hat
      refine if_neg ?_
      obtain h | h | h | h := hgone e he hk
      · simp [evaluable, h]
      · simp [evaluable, h]
      · simp [evaluable, h]
      · have hslot' : s.unit.arbiter.slot = .active g := hslot
        simp [joinable, hslot', fitsGrant, h]
    · rfl
  · intro margin fits
    have hat : entryAt { s.unit with arbiter.joins := rest } r = some e := (entryAt_eq_some _ r e).mpr ⟨he, hk⟩
    have hfits : fitsGrant { s.unit with arbiter.joins := rest } g false e = true ↔ fits := by
      rw [fitsGrant_iff]
      simp [Fits, hw, fits, margin]
    have hadmit := admitRider_active (u := { s.unit with arbiter.joins := rest }) hg hat hservice
    refine ⟨fun hf hroom => ?_, fun hnot => drops ?_⟩
    · rw [hexec, hadmit, if_pos ⟨hroom, hfits.mpr hf⟩]
      rfl
    · rw [hadmit, if_neg]
      rintro ⟨hroom, hf⟩
      obtain h | h := hnot
      · exact h (hfits.mp hf)
      · omega

end Sys2Proof.Machine
end

section
/-! The Grant Arbiter's replies and deadline, and the Controller Port's messages and silence (sections 4.3, 4.4, 4.7, 4.8). -/

open Sys2Proof Sys2Proof.Machine

namespace Sys2Proof.Machine

/-! ### Acceptance -/

/-- The unit as a valid message leaves it out of a silence, before its delivery (R97). -/
def listened (u : Bn24) : Bn24 := { u with controller.framing := .hunting, controller.silenceStart := some u.localTime }

theorem exec_controllerMessage_listened {s : State} {payload : List Byte} {check : Byte} {m : ControllerMessage} (hs : Running s)
    (hsilent : s.unit.controller.silent = false) (hm : parseController payload check = some m) :
    exec (.controllerMessageReceived payload check) s = .next { s with unit := deliverController m (listened s.unit) } := by
  rw [exec_controllerMessage_valid hs hm, heardUnit_of_not_silent s.unit hsilent]
  rfl

/-- The grant of an accepted offer, its edge from the reference time that its kind reads (R83). -/
theorem acceptedGrant_eq {u : Bn24} {o : Offer} {r : EntryRef} {e : Entry} {w : Window} {reference : Time} (hw : e.window = some w)
    (hextend : o.kind = .extend → extendReference u o.approach = reference)
    (hearly : o.kind = .early → earlyReference u o.approach = reference) :
    acceptedGrant u o r e =
      { id := o.id, kind := o.kind, amount := o.amount, isPartial := o.isPartial, approach := o.approach, members := [r]
        edge := if o.kind = .extend then reference + ds o.amount else reference - ds o.amount
        greenStart := if o.kind = .extend then none else some reference
        deadline := w.stop + ds (u.loader.inForce.params.margin + u.loader.inForce.params.grace) } := by
  cases hk : o.kind with
  | extend => simp [acceptedGrant, serviceEdge, recordedGreen, grantDeadlineOf, hk, hextend hk, hw, paramsOf]
  | early => simp [acceptedGrant, serviceEdge, recordedGreen, grantDeadlineOf, hk, hearly hk, hw, paramsOf]

theorem takeAccept_standing {u : Bn24} {o : Offer} {r : EntryRef} {e : Entry} (hslot : u.arbiter.slot = .offered o)
    (hentry : o.entry = some r) (hat : entryAt u r = some e) :
    takeAccept o.id u = count .callsAccepted (setSlot r.slot (some { e with service := .granted, served := true })
      (setGrant (.active (acceptedGrant u o r e)) u)) := by
  simp only [takeAccept, hslot, if_true, acceptOffer, hentry, hat]

/-- Settles O34: `takeAccept_standing`, the reference time by the signal state. -/
theorem acceptBeginsAGrant : Obligations.AcceptBeginsAGrant := by
  unfold Obligations.AcceptBeginsAGrant
  intro s o r e w check hs hsilent hslot hentry hid he hk hw hsum now accepts
  have hexec := exec_controllerMessage_listened hs hsilent (parseController_accept hid hsum)
  rw [deliverController, takeAccept_standing (u := listened s.unit) hslot hentry
    ((entryAt_eq_some _ r e).mpr ⟨he, hk⟩)] at hexec
  have accepted (reference : Time) (hextend : o.kind = .extend → extendReference s.unit o.approach = reference)
      (hearly : o.kind = .early → earlyReference s.unit o.approach = reference) : accepts reference := by
    rw [acceptedGrant_eq (u := listened s.unit) hw hextend hearly] at hexec
    exact hexec
  refine ⟨fun v hv => ⟨fun hk hst => ?_, fun hk hst => ?_, fun hk hst => ?_, fun hk hst => ?_⟩, fun hv => ?_⟩
  · refine accepted _ (fun _ => ?_) (by simp [hk])
    simp only [extendReference, hv, hst]
    rfl
  · refine accepted _ (fun _ => ?_) (by simp [hk])
    simp only [extendReference, hv]
    cases h : v.state with
    | green => exact absurd h hst
    | amber => rfl
    | red => rfl
    | dark => rfl
  · refine accepted _ (by simp [hk]) (fun _ => ?_)
    simp only [earlyReference, hv]
    obtain h | h := hst <;> simp only [h] <;> rfl
  · refine accepted _ (by simp [hk]) (fun _ => ?_)
    simp only [earlyReference, hv]
    obtain h | h := hst <;> simp only [h] <;> rfl
  · cases hk : o.kind with
    | extend => exact ⟨_, accepted _ (fun _ => rfl) (by simp [hk])⟩
    | early => exact ⟨_, accepted _ (by simp [hk]) (fun _ => rfl)⟩

/-! ### Offers that end unaccepted -/

theorem takeDecline_current {u : Bn24} {o : Offer} (hslot : u.arbiter.slot = .offered o) :
    takeDecline o.id u = offerEnded o (if o.entry.isSome then count .callsDeclined u else u) := by
  simp only [takeDecline, hslot, if_true]

/-- The end of an offer returns its entry with a mark of the present class and frees the slot (R85). -/
theorem offerEnded_entry {u : Bn24} {o : Offer} {r : EntryRef} {e : Entry} (hentry : o.entry = some r)
    (he : entryIn u r.slot = some e) (hk : e.key = r.key) :
    offerEnded o u = selection
      { u with arbiter.slot := .free
               table.slots := u.table.slots.set r.slot (some
                { e with service := .waiting, decision := none, declined := some (signalClassOf u e.approach) }) } := by
  have hat : entryAt u r = some e := (entryAt_eq_some u r e).mpr ⟨he, hk⟩
  simp only [offerEnded, hentry, modifyEntry, hat]
  rfl

theorem offerEnded_abandoned {u : Bn24} {o : Offer} (hentry : o.entry = none) :
    offerEnded o u = selection { u with arbiter.slot := .free } := by
  simp only [offerEnded, hentry]
  rfl

theorem exec_replyWaitExpiry {s : State} {o : Offer} (hs : Active s) (hslot : s.unit.arbiter.slot = .offered o) :
    exec .replyWaitExpiry s = .next { s with
      unit := if 0 ≤ timeDiff s.unit.localTime o.replyEnd then offerEnded o (count .replyTimeouts s.unit) else s.unit } := by
  have hdue : replyWaitDue s.unit = true ↔ 0 ≤ timeDiff s.unit.localTime o.replyEnd := by
    simp [replyWaitDue, hslot, earlier]
  refine (exec_act hs rfl).trans ?_
  simp only [hslot, hdue]

theorem signalClassOf_view {u : Bn24} {a : ApproachIx} {v : PhaseRecord} (hv : phaseOf u a = some v) :
    signalClassOf u a = if v.state = .green then .green else .notGreen := by
  simp only [signalClassOf, hv]
  cases v.state <;> rfl

/-- Settles O36: `offerEnded` by a DECLINE and by the timer. -/
theorem declineAndTimeoutEndAnOffer : Obligations.DeclineAndTimeoutEndAnOffer := by
  unfold Obligations.DeclineAndTimeoutEndAnOffer
  intro s o check hs hslot heard returned declines due ends
  have hdecline (h : declines) : exec (.controllerMessageReceived [0x43, o.id] check) s =
      .next { s with unit := offerEnded o (if o.entry.isSome then count .callsDeclined heard else heard) } := by
    obtain ⟨hsilent, hid, hsum⟩ := h
    have hexec := exec_controllerMessage_listened hs hsilent (parseController_decline hid hsum)
    rw [deliverController, takeDecline_current (u := listened s.unit) hslot] at hexec
    exact hexec
  have hexpiry := exec_replyWaitExpiry hs.1 hslot
  have ended (r : EntryRef) (e : Entry) (hentry : o.entry = some r) (he : entryIn s.unit r.slot = some e) (hk : e.key = r.key) :
      ends r e (signalClassOf s.unit e.approach) := by
    refine ⟨fun h => ?_, fun hdue => ?_⟩
    · rw [hdecline h, if_pos (by simp [hentry]), offerEnded_entry (u := count .callsDeclined heard) hentry he hk]
      rfl
    · rw [hexpiry, if_pos hdue, offerEnded_entry (u := count .replyTimeouts s.unit) hentry he hk]
      rfl
  refine ⟨fun r e hentry he hk => ⟨fun v hv => ?_, fun _ => ⟨_, ended r e hentry he hk⟩⟩,
    fun hentry => ⟨fun h => ?_, fun hdue => ?_⟩,
    fun hnot => ?_⟩
  · rw [← signalClassOf_view hv]
    exact ended r e hentry he hk
  · rw [hdecline h, if_neg (by simp [hentry]), offerEnded_abandoned hentry]
  · rw [hexpiry, if_pos hdue, offerEnded_abandoned hentry]
    rfl
  · rw [hexpiry, if_neg hnot]

/-! ### Grants that end with their members -/

/-- A grant ended from outside, up to its selection: the CLEAR, its members WAITING, the slot FREE, the join requests dropped and the
evaluations of its approach (R94, R100), with what the flags and counters then are. -/
def grantCleared (g : Grant) (m : Maintenance) (u : Bn24) : Bn24 :=
  evaluateApproach g.approach (freeGrant { returnMembers g.members (handLink (.clear g.id) u) with maint := m })

theorem grantCleared_effect {u : Bn24} (g : Grant) (m : Maintenance) (hrun : u.loader.run = .running) (hlink : LinkOk u) :
    linkMessages (grantCleared g m u) = linkMessages u ++ [.clear g.id]
      ∧ (∀ i : SlotIx, entryIn (grantCleared g m u) i = (entryIn u i).map (fun e =>
          if { slot := i, key := e.key } ∈ g.members then { e with service := .waiting, decision := none } else e))
      ∧ (grantCleared g m u).table.requests
          = u.table.requests ++ evaluationsOf (fun e => decide (e.approach = g.approach)) (grantCleared g m u)
      ∧ (grantCleared g m u).arbiter = { u.arbiter with slot := .free, joins := [] } ∧ (grantCleared g m u).maint = m
      ∧ { grantCleared g m u with arbiter := u.arbiter, maint := u.maint, table.slots := u.table.slots
                                  table.requests := u.table.requests, controller.sending := none, controller.waiting := [] }
          = { u with controller.sending := none, controller.waiting := [] } := by
  have hlinks := linkMessages_handLink (.clear g.id) u hlink.2
  have hslots (i : SlotIx) := entryIn_returnMembers g.members (handLink (.clear g.id) u) i
  have hframe := returnMembers_frame g.members (handLink (.clear g.id) u)
  simp only [entryIn_handLink] at hslots
  unfold grantCleared
  generalize returnMembers g.members (handLink (.clear g.id) u) = returned at hslots hframe
  rw [handLink_frame] at hframe
  have hrunning : (freeGrant { returned with maint := m }).loader.run = .running := by rw [hframe]; exact hrun
  rw [evaluateApproach, sendTable_running hrunning]
  refine ⟨?_, hslots, ?_, ?_, rfl, ?_⟩
  · rw [hframe, ← hlinks]
    rfl
  · rw [hframe]
    rfl
  · rw [hframe]
    rfl
  · rw [hframe]
    rfl

/-- The maintenance block of a unit whose grant has been cleared, before its flags and counters. -/
theorem returnMembers_maint (g : Grant) (u : Bn24) : (returnMembers g.members (handLink (.clear g.id) u)).maint = u.maint := by
  rw [returnMembers_frame, handLink_frame]

theorem overrun_eq (g : Grant) (u : Bn24) :
    overrun g u = selection (grantCleared g (flag .grantOverrun (count .grantOverruns u)).maint u) := by
  have hmaint := returnMembers_maint g u
  unfold overrun grantEnded grantCleared
  generalize returnMembers g.members (handLink (.clear g.id) u) = returned at hmaint
  have hflags : flag .grantOverrun (count .grantOverruns returned)
      = { returned with maint := (flag .grantOverrun (count .grantOverruns u)).maint } := by
    simp only [flag, count, hmaint]
  rw [hflags]

/-- Settles O38: `grantCleared` with its overrun counted and flagged. -/
theorem deadlineEndsTheGrant : Obligations.DeadlineEndsTheGrant := by
  unfold Obligations.DeadlineEndsTheGrant
  intro s g hs hslot hlink
  have hexec : exec .grantDeadline s = .next { s with unit := if later s.unit.localTime g.deadline then overrun g s.unit else s.unit } := by
    refine (exec_act hs.1 rfl).trans ?_
    simp only [hslot, deadlinePassed]
  refine ⟨fun hbefore => ?_, fun hpassed => ?_⟩
  · rw [hexec, if_neg (by simp [hbefore])]
  · refine ⟨grantCleared g (flag .grantOverrun (count .grantOverruns s.unit)).maint s.unit, ?_, grantCleared_effect g _ hs.2 hlink⟩
    rw [hexec, if_pos hpassed, overrun_eq]

/-! ### Silence -/

/-- A declared silence: counted, flagged, its timer stopped (R100). -/
def silenced (u : Bn24) : Bn24 :=
  { u with controller.silent := true, controller.silenceStart := none
           maint := (flag .controllerSilent (count .controllerSilences u)).maint }

theorem exec_controllerSilence {s : State} {since : Time} (hs : Running s) (hsilent : s.unit.controller.silent = false)
    (hsince : s.unit.controller.silenceStart = some since) :
    exec .controllerSilence s = .next { s with
      unit := if 30 ≤ age s.unit.localTime since then sendTable [.silence] (silenceGrant (silenced s.unit)) else s.unit } := by
  have hdue : silenceDue s.unit = true ↔ 30 ≤ age s.unit.localTime since := by
    have hlimit : (Config.silenceLimit : Int) = 30 := rfl
    simp [silenceDue, isRunning_of hs.2, hsilent, hsince, hlimit]
  refine (exec_act hs.1 rfl).trans ?_
  simp only [hdue]
  rfl

theorem silenceGrant_active {u : Bn24} {g : Grant} (hslot : u.arbiter.slot = .active g) (hsilent : u.controller.silent = true) :
    silenceGrant u = grantCleared g u.maint u := by
  have hstill : (grantCleared g u.maint u).controller.silent = true := by
    unfold grantCleared
    rw [evaluateApproach, sendTable_frame, returnMembers_frame, handLink_frame]
    exact hsilent
  have hsame : { returnMembers g.members (handLink (.clear g.id) u) with maint := u.maint }
      = returnMembers g.members (handLink (.clear g.id) u) := by
    rw [← returnMembers_maint g u]
  simp only [silenceGrant, hslot, grantEnded]
  rw [← hsame]
  exact if_neg fun h => by
    have hheard : (grantCleared g u.maint u).controller.silent = false := h.2.2
    rw [hstill] at hheard
    cases hheard

/-- Settles O40: the grant slot's part of a silence by its state, and the disarming of the table. -/
theorem controllerSilence : Obligations.ControllerSilence := by
  unfold Obligations.ControllerSilence
  refine ⟨fun s since hs hsilent hsince => ?_, fun s rq hs hrequests => ?_⟩
  · intro silent rq
    have hexec := exec_controllerSilence hs hsilent hsince
    have hrun : silent.loader.run = .running := hs.2
    refine ⟨fun hbefore => ?_, fun hdue => ⟨fun hslot => ?_, fun o hslot => ⟨fun hentry => ?_, fun r e hentry he hk => ?_⟩,
      fun g hslot hlink => ?_⟩⟩
    · rw [hexec, if_neg (by omega)]
    · have hgrant : silenceGrant silent = silent := by simp only [silenceGrant, show silent.arbiter.slot = .free from hslot]
      rw [hexec, if_pos hdue, show silenced s.unit = silent from rfl, hgrant, sendTable_running hrun]
    · have hgrant : silenceGrant silent = { silent with arbiter.slot := .free } := by
        simp only [silenceGrant, show silent.arbiter.slot = .offered o from hslot, hentry]
        rfl
      rw [hexec, if_pos hdue, show silenced s.unit = silent from rfl, hgrant, sendTable_running]
      exact hrun
    · have hat : entryAt silent r = some e := (entryAt_eq_some silent r e).mpr ⟨he, hk⟩
      have hgrant : silenceGrant silent = { silent with
          arbiter.slot := .free
          table.slots := s.unit.table.slots.set r.slot (some { e with service := .waiting, decision := none }) } := by
        simp only [silenceGrant, show silent.arbiter.slot = .offered o from hslot, hentry, returnToWaiting, modifyEntry, hat]
        rfl
      rw [hexec, if_pos hdue, show silenced s.unit = silent from rfl, hgrant, sendTable_running]
      exact hrun
    · obtain ⟨hlinks, hentries, hevaluations, harbiter, hmaint, hframe⟩ := grantCleared_effect (u := silent) g silent.maint hrun hlink
      have hgrant : silenceGrant silent = grantCleared g silent.maint silent := silenceGrant_active hslot rfl
      rw [hexec, if_pos hdue, show silenced s.unit = silent from rfl, hgrant]
      generalize grantCleared g silent.maint silent = cleared at hlinks hentries hevaluations harbiter hmaint hframe ⊢
      have hloader : cleared.loader = silent.loader := by have := congrArg Bn24.loader hframe; exact this
      rw [sendTable_running (by rw [hloader]; exact hs.2)]
      refine ⟨_, rfl, hlinks, hentries, ?_, harbiter, hmaint, Eq.trans ?_ hframe⟩
      · rw [hevaluations]
        rfl
      · rw [← hmaint]
  · refine ⟨mapSlots disarm s.unit.table.slots, ?_, fun i => ?_⟩
    · refine (exec_act hs rfl).trans ?_
      simp only [hrequests, popRequest, List.tail_cons]
      rfl
    · refine (entryIn_disarmAll s.unit i).trans ?_
      cases entryIn s.unit i <;> rfl

/-! ### Controller messages -/

/-- A message that fails its checks is counted and dropped (R97). -/
theorem exec_controllerMessage_bad {s : State} {payload : List Byte} {check : Byte} (hs : Running s)
    (hm : parseController payload check = none) :
    exec (.controllerMessageReceived payload check) s =
      .next { s with unit := count .linkBad { s.unit with controller.framing := .hunting } } := by
  refine (exec_act hs.1 (controllerLine_frames.whole_effect payload check _)).trans ?_
  rw [if_pos (isRunning_of hs.2)]
  show Host.Outcome.next { s with unit := receiveController payload check s.unit } = _
  rw [receiveController, hm]
  rfl

/-- The checks of a PHASE STATUS of the right length (R97, R98). -/
theorem parseController_phase (ap code c1 c0 n1 n0 fl check : Byte) :
    parseController [0x41, ap, code, c1, c0, n1, n0, fl] check =
      if sumOk [0x41, ap, code, c1, c0, n1, n0, fl] check = false then none
      else
        match approachOf ap, signalOf code with
        | some a, some st =>
          some (.phaseStatus a st (c1 ++ c0 : Half).toNat (n1 ++ n0 : Half).toNat (fl.getLsbD 0))
        | _, _ => none := rfl

theorem signalOf_eq_some {code : Byte} {st : SignalState}
    (h : code.toNat = (match st with | .green => 1 | .amber => 2 | .red => 3 | .dark => 4)) : signalOf code = some st := by
  cases st with
  | green => obtain rfl : code = 1 := BitVec.eq_of_toNat_eq h; rfl
  | amber => obtain rfl : code = 2 := BitVec.eq_of_toNat_eq h; rfl
  | red => obtain rfl : code = 3 := BitVec.eq_of_toNat_eq h; rfl
  | dark => obtain rfl : code = 4 := BitVec.eq_of_toNat_eq h; rfl

theorem signalOf_eq_none {code : Byte} (h : code.toNat = 0 ∨ 4 < code.toNat) : signalOf code = none := by
  have hne (k : Byte) (hk : 1 ≤ k.toNat ∧ k.toNat ≤ 4) : code ≠ k := fun heq => by rw [heq] at h; omega
  simp only [signalOf, if_neg (hne 1 (by decide)), if_neg (hne 2 (by decide)), if_neg (hne 3 (by decide)), if_neg (hne 4 (by decide))]

/-- A message that no kind's checks can pass (R97). -/
theorem parseController_malformed (check : Byte) {payload : List Byte}
    (h : ¬ SumsToZero payload check ∨ (∀ k ∈ payload.head?, k ≠ 0x41 ∧ k ≠ 0x42 ∧ k ≠ 0x43)
      ∨ (payload.head? = some 0x41 ∧ payload.length ≠ 8) ∨ (payload.head? = some 0x42 ∧ payload.length ≠ 2)
      ∨ (payload.head? = some 0x43 ∧ payload.length ≠ 2) ∨ payload = [0x42, 0] ∨ payload = [0x43, 0]) :
    parseController payload check = none := by
  unfold parseController
  by_cases hsum : sumOk payload check = false
  · rw [if_pos hsum]
  · rw [if_neg hsum]
    dsimp only
    obtain hbad | hkind | ⟨hkind, hlength⟩ | ⟨hkind, hlength⟩ | ⟨hkind, hlength⟩ | rfl | rfl := h
    · exact absurd ((sumOk_iff _ _).mp (by simpa using hsum)) hbad
    · have hne : byteAt payload 0 ≠ 0x41 ∧ byteAt payload 0 ≠ 0x42 ∧ byteAt payload 0 ≠ 0x43 := by
        cases payload with
        | nil => exact ⟨by decide, by decide, by decide⟩
        | cons k rest => exact hkind k rfl
      rw [if_neg hne.1, if_neg hne.2.1, if_neg hne.2.2]
    · rw [byteAt_head hkind, if_pos rfl, if_pos hlength]
    · rw [byteAt_head hkind, if_neg (by decide), if_pos rfl, if_pos (.inl hlength)]
    · rw [byteAt_head hkind, if_neg (by decide), if_neg (by decide), if_pos rfl, if_pos (.inl hlength)]
    · rfl
    · rfl

/-- The entries that requested evaluations name, in slot order (R56 to R58). -/
def evaluationRefs (p : Entry → Bool) (u : Bn24) : List EntryRef :=
  (List.finRange 24).filterMap fun i =>
    match entryIn u i with
    | some e => if evaluable e && p e then some { slot := i, key := e.key } else none
    | none => none

theorem evaluationsOf_eq_map (p : Entry → Bool) (u : Bn24) : evaluationsOf p u = (evaluationRefs p u).map .evaluation := by
  rw [evaluationsOf, evaluationRefs, List.map_filterMap]
  refine List.filterMap_congr fun i _ => ?_
  cases entryIn u i with
  | none => rfl
  | some e =>
    by_cases h : (evaluable e && p e) = true
    · simp only [h, if_true, Option.map_some]
    · simp only [h, if_false, Option.map_none, Bool.false_eq_true]

theorem mem_evaluationRefs (p : Entry → Bool) (u : Bn24) (r : EntryRef) : r ∈ evaluationRefs p u ↔
    ∃ e, entryIn u r.slot = some e ∧ e.key = r.key ∧ p e = true ∧ (e.service = .waiting ∨ e.service = .armed) := by
  have hmem : r ∈ evaluationRefs p u ↔ TableRequest.evaluation r ∈ evaluationsOf p u := by
    rw [evaluationsOf_eq_map, List.mem_map]
    exact ⟨fun h => ⟨r, h, rfl⟩, fun ⟨x, hx, hxr⟩ => TableRequest.evaluation.inj hxr ▸ hx⟩
  rw [hmem, mem_evaluationsOf]
  constructor
  · rintro ⟨i, e, he, hevaluable, hp, hr⟩
    obtain rfl := TableRequest.evaluation.inj hr
    exact ⟨e, he, rfl, hp, (evaluable_iff e).mp hevaluable⟩
  · rintro ⟨e, he, hk, hp, hservice⟩
    exact ⟨r.slot, e, he, (evaluable_iff e).mpr hservice, hp, by rw [hk]⟩

theorem evaluationRefs_ascending (p : Entry → Bool) (u : Bn24) :
    (evaluationRefs p u).Pairwise (fun a b => a.slot < b.slot) := by
  have own {i : SlotIx} {r : EntryRef} (h : (match entryIn u i with
      | some e => if evaluable e && p e then some ({ slot := i, key := e.key } : EntryRef) else none
      | none => none) = some r) : r.slot = i := by
    split at h
    · split at h
      · exact (congrArg EntryRef.slot (Option.some.inj h)).symm
      · cases h
    · cases h
  rw [evaluationRefs, List.pairwise_filterMap]
  exact (List.pairwise_lt_finRange 24).imp fun hab x hx y hy => by rw [own hx, own hy]; exact hab

/-- Settles O39: the parse of each message; a PHASE STATUS delivered to the phase view. -/
theorem controllerMessagesAreChecked : Obligations.ControllerMessagesAreChecked := by
  unfold Obligations.ControllerMessagesAreChecked
  refine ⟨⟨fun s a st ap code c1 c0 n1 n0 fl check hs => ?_,
    fun s payload check hs => ⟨fun hrun hbad => ?_, fun hrun => ⟨?_, ?_⟩⟩⟩,
    fun u p => ⟨evaluationRefs p u, evaluationsOf_eq_map p u, evaluationRefs_ascending p u, mem_evaluationRefs p u⟩⟩
  · intro payload view onApproach
    refine ⟨fun hsum ha hst => ?_, fun hbad => exec_controllerMessage_bad hs ?_⟩
    · have hparse : parseController payload check
          = some (.phaseStatus a st (c1 ++ c0 : Half).toNat (n1 ++ n0 : Half).toNat (fl.getLsbD 0)) := by
        have hap : approachOf ap = some a := indexOf_eq_some ha
        rw [parseController_phase, if_neg (sumOk_passes hsum), hap, signalOf_eq_some hst]
      rw [exec_controllerMessage_valid hs hparse]
      simp only [deliverController, takePhaseStatus, evaluateApproach]
      rw [sendTable_running (by exact hs.2)]
      rfl
    · rw [parseController_phase]
      by_cases hsum : SumsToZero payload check
      · obtain hsum' | ha | ha | hcode | hcode := hbad
        · exact absurd hsum hsum'
        · rw [if_neg (sumOk_passes hsum), show approachOf ap = none from indexOf_eq_none (.inl ha)]
        · rw [if_neg (sumOk_passes hsum), show approachOf ap = none from indexOf_eq_none (.inr ha)]
        · rw [if_neg (sumOk_passes hsum), signalOf_eq_none (.inl hcode)]
          cases approachOf ap <;> rfl
        · rw [if_neg (sumOk_passes hsum), signalOf_eq_none (.inr hcode)]
          cases approachOf ap <;> rfl
      · rw [if_pos (Bool.eq_false_iff.mpr fun h => hsum ((sumOk_iff _ _).mp h))]
  · exact exec_controllerMessage_bad ⟨hs, hrun⟩ (parseController_malformed check hbad)
  · exact exec_idle hs (controllerLine_frames.whole_effect payload check _) (by simp [isRunning, hrun])
  · exact exec_idle hs (detectionLine_frames.whole_effect payload check _) (by simp [isRunning, hrun])

end Sys2Proof.Machine
end

section
/-! The Corridor Port (chapter 6): the line's timing, attempts, reception and the transmit queue. -/

open Sys2Proof Sys2Proof.Machine

namespace Sys2Proof.Machine

/-! ### Line timing (R123 to R126) -/

/-- The slot times since the last falling edge that a report brings the count to. -/
def slotsSinceEdge (report : LineReport) (p : CorridorPort) : Nat :=
  min 200 ((if report.edge then 0 else p.lineTimer.getD 0) + report.slots)

/-- The slot times of a recessive line that a report brings the count to. -/
def slotsRecessive (report : LineReport) (p : CorridorPort) : Nat :=
  match report.level with
  | .dominant => 0
  | .recessive n => min 200 (if n < report.slots then n else (if report.edge then 0 else p.recessive) + report.slots)

theorem slotsRecessive_le (report : LineReport) (p : CorridorPort) : slotsRecessive report p ≤ 200 := by
  unfold slotsRecessive
  split
  · omega
  · exact Nat.min_le_left _ _

/-- A report moves the two counts on, and in QUIET_WAIT an edge that it tells is remembered. -/
theorem advanceTimer_eq (report : LineReport) (p : CorridorPort) :
    advanceTimer report p =
      { p with lineTimer := some (slotsSinceEdge report p), recessive := slotsRecessive report p
               edgeSeen := p.edgeSeen || report.edge && decide (p.state = .quietWait) } := by
  cases hedge : report.edge <;> cases hlevel : report.level <;>
    simp [advanceTimer, timingBefore, edgeObserved, slotsSinceEdge, slotsRecessive, recessiveFor, Config.quietSlots, hedge,
      hlevel]

/-- R123 in numbers. -/
theorem lineFree_advanced (report : LineReport) (p : CorridorPort) :
    lineFree report.level (advanceTimer report p) = true ↔ 15 ≤ slotsSinceEdge report p ∧ report.level ≠ .dominant := by
  rw [advanceTimer_eq]
  cases hlevel : report.level with
  | dominant => simp [lineFree, isRecessive]
  | recessive n =>
    show decide (15 ≤ slotsSinceEdge report p) = true ↔ _
    simp

/-- R126 in numbers. -/
theorem quietWaitOver_advanced (report : LineReport) (p : CorridorPort) (hwait : p.state = .quietWait) :
    quietWaitOver report.level (advanceTimer report p) = true ↔
      ((p.edgeSeen || report.edge) = true ∧ 15 ≤ slotsSinceEdge report p ∧ report.level ≠ .dominant)
        ∨ slotsRecessive report p = 200 := by
  have hseen : (advanceTimer report p).edgeSeen = (p.edgeSeen || report.edge) := by simp [advanceTimer_eq, hwait]
  have hquiet : (advanceTimer report p).recessive = slotsRecessive report p := by rw [advanceTimer_eq]
  have hle := slotsRecessive_le report p
  rw [quietWaitOver, Bool.or_eq_true, Bool.and_eq_true, lineFree_advanced, hseen, hquiet, decide_eq_true_iff]
  refine or_congr_right ⟨fun h => ?_, fun h => ?_⟩
  · exact Nat.le_antisymm hle h
  · exact h.ge

/-! ### Decoding (R124, R125) -/

theorem listening_iff (st : PortState) : listening st = true ↔ st ≠ .off ∧ st ≠ .contend ∧ st ≠ .send := by
  cases st <;> simp [listening]

/-- The port that has observed a falling edge. -/
theorem edgeObserved_eq (p : CorridorPort) :
    edgeObserved p =
      { p with lineTimer := some 0, recessive := 0, edgeSeen := p.edgeSeen || decide (p.state = .quietWait) } := rfl

/-- The end of decoding, field by field. -/
theorem stopDecoding_eq (timing : CorridorPort → CorridorPort) (u : Bn24) :
    stopDecoding timing u =
      { u with port := { timing u.port with
          state := if (timing u.port).state = .receive then .idle else (timing u.port).state, decoding := none } } := by
  cases hstate : (timing u.port).state <;> simp [stopDecoding, setPort, hstate]

theorem afterFault_iff (u : Bn24) : afterFault u = true ↔ ∃ d ∈ u.port.decoding, d.afterFault = true := by
  cases hdec : u.port.decoding <;> simp [afterFault, hdec]

theorem any_afterFault_iff (u : Bn24) : u.port.decoding.any Decoding.afterFault = true ↔ afterFault u = true := by
  cases hdec : u.port.decoding <;> simp [afterFault, hdec]

theorem startMarkOf_eq (u : Bn24) : startMarkOf u = u.port.decoding.elim u.localTime Decoding.startMark := by
  cases hdec : u.port.decoding <;> simp [startMarkOf, hdec]

/-- A malformed remainder after a line fault ends decoding and leaves the timing (R128). -/
theorem dropMalformed_afterFault {u : Bn24} (h : afterFault u = true) :
    dropMalformed frameBroken u =
      { u with port.state := if u.port.state = .receive then .idle else u.port.state, port.decoding := none } := by
  have htiming : frameBroken u.port = u.port := if_pos ((any_afterFault_iff u).mpr h)
  rw [dropMalformed, if_pos h, stopDecoding_eq, htiming]

/-- Any other malformed frame is counted, and its edges were observed (R127). -/
theorem dropMalformed_counted {u : Bn24} (h : ¬ afterFault u = true) :
    dropMalformed frameBroken u =
      count .frameCheckErrors
        { u with port.state := if u.port.state = .receive then .idle else u.port.state, port.decoding := none
                 port.lineTimer := some 0, port.recessive := 0
                 port.edgeSeen := u.port.edgeSeen || decide (u.port.state = .quietWait) } := by
  have htiming : frameBroken u.port = edgeObserved u.port := if_neg fun hany => h ((any_afterFault_iff u).mp hany)
  rw [dropMalformed, if_neg h, stopDecoding_eq, htiming]
  rfl

/-- What QUIET_WAIT_END does in the quiet wait (R126). -/
theorem exec_quietWaitEnd {s : State} (report : LineReport) (hs : Active s) (hwait : s.unit.port.state = .quietWait)
    (hdec : s.unit.port.decoding = none) :
    exec (.quietWaitEnd report) s =
      .next { s with unit.port :=
        if quietWaitOver report.level (advanceTimer report s.unit.port)
        then { advanceTimer report s.unit.port with state := .idle } else advanceTimer report s.unit.port } := by
  refine (exec_act hs rfl).trans ?_
  simp only [hwait, hdec]
  rfl

/-- What START_MARK_DETECTED does at a port that watches the line and decodes nothing (R124). -/
theorem exec_startMarkDetected {s : State} (hs : Active s) (hlisten : listening s.unit.port.state = true)
    (hidle : s.unit.port.decoding = none) :
    exec .startMarkDetected s =
      .next { s with unit.port := { edgeObserved s.unit.port with
        state := if s.unit.port.state = .idle then .receive else s.unit.port.state
        decoding := some { startMark := s.unit.localTime, afterFault := false } } } := by
  refine (exec_act hs rfl).trans ?_
  simp only [hlisten, hidle]
  rfl

/-- What PULSE_NOT_FRAME does there (R124). -/
theorem exec_pulseNotFrame {s : State} (hs : Active s) (hlisten : listening s.unit.port.state = true)
    (hidle : s.unit.port.decoding = none) :
    exec .pulseNotFrame s = .next { s with unit.port := edgeObserved s.unit.port } := by
  refine (exec_act hs rfl).trans ?_
  simp only [hlisten, hidle]
  rfl

/-- Settles O42: the quiet wait by the two counts, then each command on the line by whether the port watches it. -/
theorem lineTimingAndDecoding : Obligations.LineTimingAndDecoding := by
  unfold Obligations.LineTimingAndDecoding
  refine ⟨fun s report hs => ?wait, fun s hs => ?line⟩
  case wait =>
    intro total quiet seen ended
    refine ⟨fun hwait hdec => ⟨fun hended => ?ends, fun hended => ?waits⟩, fun hother => ?elsewhere⟩
    case ends =>
      rw [exec_quietWaitEnd report hs hwait hdec, if_pos ((quietWaitOver_advanced report _ hwait).mpr hended), advanceTimer_eq]
      simp only [hwait, decide_true, Bool.and_true]
      rfl
    case waits =>
      rw [exec_quietWaitEnd report hs hwait hdec,
        if_neg fun hover => hended ((quietWaitOver_advanced report _ hwait).mp hover), advanceTimer_eq]
      simp only [hwait, decide_true, Bool.and_true]
      rfl
    case elsewhere =>
      refine exec_idle hs rfl ?_
      rcases hother with hstate | hdec
      · split <;> simp_all
      · split <;> simp_all
  case line =>
    intro p seen
    refine ⟨fun hdeaf => ?deaf, fun hoff hcont hsend hdec => ?anew, fun hoff hcont hsend hdec => ?busy,
      fun hoff hcont hsend => ⟨fun hfault => ?remainder, fun hfault => ?malformed⟩⟩
    case deaf =>
      have hlisten : listening s.unit.port.state = false := by
        rcases hdeaf with h | h | h <;> exact congrArg listening h
      refine ⟨exec_idle hs rfl ?_, exec_idle hs rfl ?_, exec_idle hs rfl ?_, fun header payload check => exec_idle hs rfl ?_⟩ <;>
        simp only [hlisten] <;> rfl
    case anew =>
      have hlisten : listening s.unit.port.state = true := (listening_iff _).mpr ⟨hoff, hcont, hsend⟩
      exact ⟨exec_startMarkDetected hs hlisten hdec, exec_pulseNotFrame hs hlisten hdec⟩
    case busy =>
      have hlisten : listening s.unit.port.state = true := (listening_iff _).mpr ⟨hoff, hcont, hsend⟩
      obtain ⟨d, hd⟩ := Option.ne_none_iff_exists'.mp hdec
      refine ⟨exec_idle hs rfl ?_, exec_idle hs rfl ?_⟩ <;> simp only [hlisten, show s.unit.port.decoding = some d from hd]
    case remainder =>
      refine (exec_act hs rfl).trans ?_
      rw [if_pos ((listening_iff _).mpr ⟨hoff, hcont, hsend⟩), dropMalformed_afterFault ((afterFault_iff _).mpr hfault)]
    case malformed =>
      refine (exec_act hs rfl).trans ?_
      rw [if_pos ((listening_iff _).mpr ⟨hoff, hcont, hsend⟩),
        dropMalformed_counted fun hafter => hfault ((afterFault_iff _).mp hafter)]

/-! ### Attempts (section 6.4) -/

/-- What has passed on the line does not touch an IDLE port's memory of edges. -/
theorem advanceTimer_idle (report : LineReport) {p : CorridorPort} (hidle : p.state = .idle) :
    advanceTimer report p =
      { p with lineTimer := some (slotsSinceEdge report p), recessive := slotsRecessive report p } := by
  rw [advanceTimer_eq]
  simp [hidle]

theorem exec_attemptStart {s : State} (report : LineReport) (hs : Active s) (hidle : s.unit.port.state = .idle) :
    exec (.attemptStart report) s =
      .next { s with unit :=
        if 15 ≤ slotsSinceEdge report s.unit.port ∧ report.level ≠ .dominant
        then beginAttempt (applyBudget (setPort (advanceTimer report) s.unit)) else setPort (advanceTimer report) s.unit } := by
  refine (exec_act hs rfl).trans ?_
  simp only [hidle]
  congr 2
  exact if_congr (lineFree_advanced report s.unit.port) rfl rfl

theorem setPort_countTimes (f : CorridorPort → CorridorPort) (c : Counter) (n : Nat) (u : Bn24) :
    setPort f (countTimes c n u) = countTimes c n (setPort f u) := by
  induction n generalizing u with
  | zero => rfl
  | succ n ih => exact ih (count c u)

/-- The send budget takes exactly the late heads (R137). -/
theorem applyBudget_eq {u : Bn24} {late rest : List QueuedFrame} (hqueue : u.port.queue = late ++ rest)
    (hlate : ∀ g ∈ late, overBudget u g = true) (hrest : ∀ g ∈ rest.head?, overBudget u g = false) :
    applyBudget u = countTimes .sendDiscards late.length (setPort (fun p => { p with queue := rest }) u) := by
  have hnone : rest.takeWhile (overBudget u) = [] ∧ rest.dropWhile (overBudget u) = rest := by
    cases rest with
    | nil => exact ⟨rfl, rfl⟩
    | cons f rest => simp [hrest f (by simp)]
  rw [applyBudget, hqueue, List.takeWhile_append_of_pos hlate, hnone.1, List.append_nil]
  show countTimes _ _ { u with port.queue := u.port.queue.dropWhile (overBudget u) } = _
  rw [hqueue, List.dropWhile_append_of_pos hlate, hnone.2]
  rfl

/-- The attempt at the head that is left is the same whatever has been counted. -/
theorem beginAttempt_countTimes (c : Counter) (n : Nat) (u : Bn24) :
    beginAttempt (countTimes c n u) = countTimes c n (beginAttempt u) := by
  have hframe := countTimes_frame c n u
  cases hqueue : u.port.queue with
  | nil =>
    have hq : (countTimes c n u).port.queue = [] := by rw [hframe]; exact hqueue
    simp only [beginAttempt, hq, hqueue]
  | cons f rest =>
    have hq : (countTimes c n u).port.queue = f :: rest := by rw [hframe]; exact hqueue
    have hattempt : attemptOf (countTimes c n u) f = attemptOf u f := by rw [hframe]; rfl
    simp only [beginAttempt, hq, hqueue, hattempt, setPort_countTimes]

/-- On a free line the attempt is made at the head that the send budget leaves (R129, R137). -/
theorem exec_attemptStart_free {s : State} {report : LineReport} {late rest : List QueuedFrame} (hs : Active s)
    (hidle : s.unit.port.state = .idle) (hfree : 15 ≤ slotsSinceEdge report s.unit.port ∧ report.level ≠ .dominant)
    (hqueue : s.unit.port.queue = late ++ rest) (hlate : ∀ g ∈ late, overBudget s.unit g = true)
    (hrest : ∀ g ∈ rest.head?, overBudget s.unit g = false) :
    exec (.attemptStart report) s =
      .next { s with
        unit := countTimes .sendDiscards late.length
                  (beginAttempt
                    { s.unit with port.lineTimer := some (slotsSinceEdge report s.unit.port)
                                  port.recessive := slotsRecessive report s.unit.port, port.queue := rest }) } := by
  rw [exec_attemptStart report hs hidle, if_pos hfree, applyBudget_eq (late := late) (rest := rest), beginAttempt_countTimes]
  · simp only [setPort, advanceTimer_idle report hidle]
  · rw [setPort_port, advanceTimer_idle report hidle]
    exact hqueue
  · exact hlate
  · exact hrest

/-- The attempt ends and the port decodes from its start mark. -/
theorem loseAttempt_eq {u : Bn24} {a : Attempt} (fault : Bool) (hattempt : u.port.attempt = some a) :
    loseAttempt fault u =
      { u with port.state := .receive, port.attempt := none
               port.queue := u.port.queue.map (fun f => { f with underAttempt := false })
               port.decoding := some { startMark := a.start, afterFault := fault } } := by
  simp only [loseAttempt, setPort, hattempt]
  rfl

/-- Settles O43: ATTEMPT_START by the line and the queue, then the ends of an attempt, in their states and outside them. -/
theorem attemptsBeginAndEnd : Obligations.AttemptsBeginAndEnd := by
  unfold Obligations.AttemptsBeginAndEnd
  refine ⟨fun s report late rest f hs => ?start, fun s a hs hattempt => ?ends, fun s hs => ?elsewhere⟩
  case start =>
    intro total quiet isFree overdue
    refine ⟨fun hstate => ?_, fun hidle hbusy => ?_, fun hidle hfree hqueue hlate => ?_,
      fun hidle hfree hqueue hlate hf => ?_⟩
    · refine exec_idle hs rfl ?_
      split <;> simp_all
    · rw [exec_attemptStart report hs hidle, setPort, advanceTimer_idle report hidle]
      exact congrArg (fun v => Host.Outcome.next { s with unit := v }) (if_neg hbusy)
    · exact exec_attemptStart_free (rest := []) hs hidle hfree (by simpa using hqueue)
        (fun g hg => decide_eq_true (hlate g hg)) (by simp)
    · refine (exec_attemptStart_free hs hidle hfree hqueue (fun g hg => decide_eq_true (hlate g hg)) ?_).trans ?_
      · rintro g ⟨⟩
        exact decide_eq_false hf
      · cases hbody : f.body <;> simp only [beginAttempt, setPort, attemptOf, queuedHeader, hbody] <;> rfl
  case ends =>
    intro lost beaten sent
    have hseen (hcontend : s.unit.port.state = .contend) :
        edgeObserved s.unit.port = { s.unit.port with lineTimer := some 0, recessive := 0 } := by
      simp [edgeObserved, hcontend]
    have hlost : loseAttempt true s.unit = lost true := loseAttempt_eq true hattempt
    refine ⟨fun hstate => ⟨(exec_act hs rfl).trans ?_, (exec_act hs rfl).trans ?_, (exec_act hs rfl).trans ?_⟩,
      fun hstate => ⟨(exec_act hs rfl).trans ?_, (exec_act hs rfl).trans ?_⟩⟩
    · simp only [hstate, setPort, hseen]
    · simp only [hstate]
      rw [loseAttempt_eq (u := setPort edgeObserved s.unit) false hattempt]
      simp only [setPort, hseen hstate]
      rfl
    · simp only [hstate, hlost]
    · simp only [hstate]
      rfl
    · simp only [hstate, hlost]
  case elsewhere =>
    refine ⟨fun hstate => ⟨exec_idle hs rfl ?_, exec_idle hs rfl ?_⟩, fun hstate => exec_idle hs rfl ?_,
      fun hcontend hsend => exec_idle hs rfl ?_⟩ <;> split <;> simp_all

/-! ### Reception (R127, R128, R139) -/

/-- The unit when the end of a frame has passed on the line. -/
def frameEndedUnit (u : Bn24) : Bn24 :=
  { u with port.state := if u.port.state = .receive then .idle else u.port.state, port.decoding := none
           port.lineTimer := some 3, port.recessive := 2
           port.edgeSeen := u.port.edgeSeen || decide (u.port.state = .quietWait) }

theorem stopDecoding_frameEnded (u : Bn24) : stopDecoding frameEnded u = frameEndedUnit u :=
  stopDecoding_eq frameEnded u

/-- The kinds and lengths that a header refuses (R127). -/
theorem badHeader_iff (h : Half) :
    badHeader h = true ↔
      (headerKind h = 1 ∧ headerLength h ≠ 5) ∨ (headerKind h = 2 ∧ headerLength h ≠ 10)
        ∨ (headerKind h = 3 ∧ headerLength h ≠ 3) ∨ headerKind h = 0 ∨ 3 < headerKind h := by
  rw [badHeader, Bool.or_eq_true, decide_eq_true_iff, decide_eq_true_iff, kindLength]
  split_ifs with h1 h2 h3 <;> simp only [ne_eq, Option.some.injEq, reduceCtorEq, not_false_eq_true, or_true, true_iff] <;> omega

theorem exec_frameReceived {s : State} (header : Half) (payload : List Byte) (check : Half) (hs : Active s)
    (hlisten : listening s.unit.port.state = true) :
    exec (.frameReceived header payload check) s =
      .next { s with unit := receiveFrame header payload check s.unit } := by
  refine (exec_act hs rfl).trans ?_
  rw [if_pos hlisten]

/-- A bad header (R127, R128). -/
theorem receiveFrame_badHeader {u : Bn24} {header : Half} (payload : List Byte) (check : Half)
    (hbad : badHeader header = true) :
    receiveFrame header payload check u =
      if afterFault u then frameEndedUnit u else count .frameCheckErrors (frameEndedUnit u) := by
  rw [receiveFrame, if_pos hbad, dropMalformed, stopDecoding_frameEnded]

/-- A good header on a frame that fails another test. -/
theorem receiveFrame_invalid {u : Bn24} {header : Half} {payload : List Byte} {check : Half}
    (hgood : ¬ badHeader header = true) (hinvalid : ¬ frameValid header payload check = true) :
    receiveFrame header payload check u = count .frameCheckErrors (frameEndedUnit u) := by
  rw [receiveFrame, if_neg hgood, stopDecoding_frameEnded]
  exact if_neg hinvalid

/-- A valid frame is delivered, or shows a clash. -/
theorem receiveFrame_valid {u : Bn24} {header : Half} {payload : List Byte} {check : Half}
    (hvalid : frameValid header payload check = true) :
    receiveFrame header payload check u =
      if headerSender header = u.loader.inForce.station then takeClash (count .framesReceived (frameEndedUnit u))
      else deliverFrame header payload (startMarkOf u) (count .framesReceived (frameEndedUnit u)) := by
  have hgood : badHeader header = false := ((frameValid_iff _ _ _).mp hvalid).1
  rw [receiveFrame, if_neg (by simp [hgood]), stopDecoding_frameEnded]
  exact if_pos hvalid

/-- Settles O44: the header's test, the other tests of R127, and the delivery by the kind. -/
theorem receivedFramesAreTestedAndDelivered : Obligations.ReceivedFramesAreTestedAndDelivered := by
  unfold Obligations.ReceivedFramesAreTestedAndDelivered
  intro s header check payload hs hoff hcontend hsend hlength p u kind sender badLength valid received
  have hreceived (v : Bn24) (hv : receiveFrame header payload check s.unit = v) : received v := by
    rw [← hv]
    exact exec_frameReceived header payload check hs ((listening_iff _).mpr ⟨hoff, hcontend, hsend⟩)
  have hbad : badHeader header = true ↔ badLength := by
    rw [badHeader_iff, ← hlength]
  have hgood (h : ¬ badLength) : badHeader header = false := Bool.eq_false_iff.mpr fun hb => h (hbad.mp hb)
  have hvalid : frameValid header payload check = true ↔ valid := by
    rw [frameValid_iff]
    exact ⟨fun ⟨hheader, _, hcheck, hlow, hhigh⟩ => ⟨fun h => by simp [hbad.mpr h] at hheader, hcheck, hlow, hhigh⟩,
      fun ⟨hshort, hcheck, hlow, hhigh⟩ => ⟨hgood hshort, hlength, hcheck, hlow, hhigh⟩⟩
  refine ⟨fun h hfault => ?_, fun h hfault => ?_, fun h hinvalid => ?_, fun h hforeign => ?_, fun h hown => ?_⟩
  · exact hreceived _ ((receiveFrame_badHeader payload check (hbad.mpr h)).trans (if_pos ((afterFault_iff _).mpr hfault)))
  · exact hreceived _ ((receiveFrame_badHeader payload check (hbad.mpr h)).trans
      (if_neg fun hafter => hfault ((afterFault_iff _).mp hafter)))
  · exact hreceived _ (receiveFrame_invalid (fun hb => h (hbad.mp hb)) fun hv => hinvalid (hvalid.mp hv))
  · have hdelivered := (receiveFrame_valid (u := s.unit) (hvalid.mpr h)).trans (if_neg hforeign)
    rw [deliverFrame] at hdelivered
    refine ⟨fun hkind => ?_, fun hkind => ?_, fun hkind => ?_⟩ <;>
      refine hreceived _ (hdelivered.trans ?_)
    · rw [if_pos hkind, startMarkOf_eq]
      rfl
    · rw [if_neg (by omega), if_pos hkind]
      rfl
    · rw [if_neg (by omega), if_neg (by omega)]
      rfl
  · refine hreceived _ (((receiveFrame_valid (hvalid.mpr h)).trans (if_pos hown)).trans ?_)
    rw [takeClash]
    rfl

/-! ### The transmit queue (section 6.5) -/

theorem isBeacon_iff (f : QueuedFrame) : isBeacon f = true ↔ f.body = .beacon := by
  cases hbody : f.body <;> simp [isBeacon, hbody]

/-- A port that is neither OFF nor SILENT queues what it is offered. -/
theorem offerFrame_placed (body : FrameBody) (n : Nat) {u : Bn24} (hoff : u.port.state ≠ .off) (hsilent : u.port.state ≠ .silent) :
    offerFrame body n u = placeFrame (newFrame u body n) u := by
  unfold offerFrame
  split <;> simp_all

/-- A frame that refreshes no queued BEACON enters, displaces another, or is lost (R134, R136). -/
theorem placeFrame_plain {f : QueuedFrame} {u : Bn24} (hplain : isBeacon f = true → ∀ g ∈ u.port.queue, isBeacon g = false) :
    placeFrame f u =
      if u.port.queue.length < 6 then setPort (fun p => { p with queue := insertFrame f p.queue }) u
      else if u.port.queue.any (displaceable f.urgency) then
        count .sendDiscards (setPort (fun p => { p with queue := insertFrame f (withoutWorst f.urgency p.queue) }) u)
      else count .sendDiscards u := by
  have hnone : (if isBeacon f then u.port.queue.find? isBeacon else none) = none := by
    split
    next hf => simpa using hplain hf
    next => rfl
  rw [placeFrame, hnone]
  rfl

/-- A BEACON refreshes the one in the queue (R135). -/
theorem placeFrame_beacon {f b : QueuedFrame} {u : Bn24} (hf : isBeacon f = true) (hb : b ∈ u.port.queue)
    (hbeacon : isBeacon b = true) (hone : (u.port.queue.filter isBeacon).length ≤ 1) :
    placeFrame f u = setPort (fun p => { p with queue := refreshBeacon f.entryTime b p.queue }) u := by
  have hfound : u.port.queue.find? isBeacon = some b := by
    obtain ⟨a, hsingle⟩ := List.length_eq_one_iff.mp
      (Nat.le_antisymm hone (List.length_pos_of_mem (List.mem_filter.mpr ⟨hb, hbeacon⟩)))
    have hmem : b ∈ [a] := hsingle ▸ List.mem_filter.mpr ⟨hb, hbeacon⟩
    rw [← List.head?_filter, hsingle, List.mem_singleton.mp hmem]
    rfl
  rw [placeFrame, if_pos hf, hfound]

/-- The last frame that a test selects is removed. -/
theorem removeLast_append {p : QueuedFrame → Bool} {g : QueuedFrame} (before : List QueuedFrame) {after : List QueuedFrame}
    (hg : p g = true) (hafter : ∀ h ∈ after, p h = false) : removeLast p (before ++ g :: after) = before ++ after := by
  have hrev : (before ++ g :: after).reverse = after.reverse ++ g :: before.reverse := by simp
  rw [removeLast, hrev, List.eraseP_append_right _ (by simpa using hafter), List.eraseP_cons_of_pos hg]
  simp

theorem displaceable_iff (n : Nat) (f : QueuedFrame) :
    displaceable n f = true ↔ f.underAttempt = false ∧ n < f.urgency := by
  simp [displaceable]

/-- A displaceable frame whose urgency value no displaceable one exceeds has the worst (R136). -/
theorem worstUrgency_eq {n : Nat} {q : List QueuedFrame} {g : QueuedFrame} (hg : g ∈ q) (hd : displaceable n g = true)
    (hmax : ∀ h ∈ q, displaceable n h = true → h.urgency ≤ g.urgency) : worstUrgency n q = g.urgency := by
  obtain ⟨hval, -, hall⟩ := foldl_max_urgency (q.filter (displaceable n)) 0
  have hle : g.urgency ≤ worstUrgency n q := hall g (List.mem_filter.mpr ⟨hg, hd⟩)
  refine Nat.le_antisymm ?_ hle
  rcases hval with h | ⟨f, hf, h⟩
  · exact (show worstUrgency n q = 0 from h) ▸ Nat.zero_le _
  · obtain ⟨hfq, hfd⟩ := List.mem_filter.mp hf
    exact (show f.urgency = worstUrgency n q from h) ▸ hmax f hfq hfd

/-- The frame that gives way is the last of the worst urgency value that is not under attempt (R136). -/
theorem withoutWorst_eq {n : Nat} {before after : List QueuedFrame} {g : QueuedFrame} (hfree : g.underAttempt = false)
    (hn : n < g.urgency) (hmax : ∀ h ∈ before ++ g :: after, h.underAttempt = false → h.urgency ≤ g.urgency)
    (hlast : ∀ h ∈ after, h.underAttempt = false → h.urgency < g.urgency) :
    withoutWorst n (before ++ g :: after) = before ++ after := by
  have hd : displaceable n g = true := (displaceable_iff n g).mpr ⟨hfree, hn⟩
  have hworst : worstUrgency n (before ++ g :: after) = g.urgency :=
    worstUrgency_eq (by simp) hd fun h hh hhd => hmax h hh ((displaceable_iff n h).mp hhd).1
  rw [withoutWorst, hworst]
  refine removeLast_append before (by simp [isWorst, hd]) fun h hh => ?_
  cases hattempt : h.underAttempt with
  | true => simp [isWorst, displaceable, hattempt]
  | false =>
    have := hlast h hh hattempt
    simp [isWorst]
    omega

/-- Settles O47: the port's state, then what the queue holds decides where the frame goes. -/
theorem offeredFramesArePlacedByUrgency : Obligations.OfferedFramesArePlacedByUrgency := by
  unfold Obligations.OfferedFramesArePlacedByUrgency
  rintro u body n ⟨-, hone, hsorted, -⟩ q new among plain placing
  have hplaced (h : placing) : offerFrame body n u = placeFrame new u := offerFrame_placed body n h.1 h.2
  have hplain (h : plain) : isBeacon new = true → ∀ g ∈ q, isBeacon g = false := fun hnew g hg =>
    Bool.eq_false_iff.mpr fun hbeacon => h.elim (fun hbody => hbody ((isBeacon_iff new).mp hnew))
      fun hnone => hnone g hg ((isBeacon_iff g).mp hbeacon)
  have hfull (h : q.length = 6) : ¬ q.length < 6 := by omega
  refine ⟨fun hoff => ?_, fun hsilent => ?_, fun hp hpl hroom => ?_, fun hp hbody b hb hbeacon => ?_,
    fun hp hpl hlen hkept => ?_, fun hp hpl hlen before after g hsplit hfree hn hmax hlast => ?_⟩
  · simp only [offerFrame, hoff]
  · simp only [offerFrame, hsilent]
  · rw [hplaced hp, placeFrame_plain (hplain hpl), if_pos hroom, setPort, insertFrame_eq new _ hsorted]
  · rw [hplaced hp, placeFrame_beacon ((isBeacon_iff new).mpr hbody) hb ((isBeacon_iff b).mpr hbeacon) hone, setPort,
      refreshBeacon, insertFrame_eq _ _ (hsorted.sublist List.filter_sublist)]
    have hothers : (fun f => !isBeacon f) = fun f : QueuedFrame => decide (f.body ≠ .beacon) := by
      funext f
      simp [← isBeacon_iff]
    rw [hothers]
  · have hnone : q.any (displaceable n) = false := by
      rw [List.any_eq_false]
      intro g hg hd
      obtain ⟨hfree, hlt⟩ := (displaceable_iff n g).mp hd
      exact (hkept g hg).elim (fun h => by simp [h] at hfree) (by omega)
    rw [hplaced hp, placeFrame_plain (hplain hpl), if_neg (hfull hlen)]
    exact if_neg (by simp [new, show u.port.queue.any (displaceable n) = false from hnone])
  · have hany : q.any (displaceable n) = true :=
      List.any_eq_true.mpr ⟨g, by simp [hsplit], (displaceable_iff n g).mpr ⟨hfree, hn⟩⟩
    have hrest : withoutWorst n q = before ++ after := by
      rw [hsplit]
      exact withoutWorst_eq hfree hn (hsplit ▸ hmax) hlast
    have hsub : (before ++ after).Sublist q := hrest ▸ removeLast_sublist _ q
    rw [hplaced hp, placeFrame_plain (hplain hpl), if_neg (hfull hlen), if_pos hany, setPort]
    show count .sendDiscards { u with port.queue := insertFrame new (withoutWorst n q) } = _
    rw [hrest, insertFrame_eq new _ (hsorted.sublist hsub)]

end Sys2Proof.Machine
end

section
/-! Corridor frames as they are sent and read (section 11.3). -/

open Sys2Proof Sys2Proof.Machine

namespace Sys2Proof.Machine

/-! ### Fields of words -/

/-- A field of the upper part of a concatenation. -/
theorem extractLsb'_append_high {m n : Nat} (x : BitVec m) (y : BitVec n) (start len : Nat) :
    (x ++ y).extractLsb' (n + start) len = x.extractLsb' start len := by
  refine BitVec.eq_of_getLsbD_eq fun i hi => ?_
  have hup : ¬ n + start + i < n := by omega
  have hindex : n + start + i - n = start + i := by omega
  simp [BitVec.getLsbD_append, hi, hup, hindex]

/-- Two bytes of a word make the word. -/
theorem halfBytes_append (h : Half) : h.extractLsb' 8 8 ++ h.extractLsb' 0 8 = h :=
  (BitVec.extractLsb'_append_extractLsb'_eq_extractLsb' rfl).trans BitVec.extractLsb'_eq_self

/-- Three bytes of a time make the time. -/
theorem timeBytes_append (t : Time) : t.extractLsb' 16 8 ++ t.extractLsb' 8 8 ++ t.extractLsb' 0 8 = t := by
  have hhigh : t.extractLsb' 16 8 ++ t.extractLsb' 8 8 = t.extractLsb' 8 16 :=
    BitVec.extractLsb'_append_extractLsb'_eq_extractLsb' rfl
  rw [hhigh]
  exact (BitVec.extractLsb'_append_extractLsb'_eq_extractLsb' rfl).trans BitVec.extractLsb'_eq_self

/-! ### Headers (R205) -/

theorem headerLength_makeHeader (urgency kind sender : Nat) {length : Nat} (h : length < 16) :
    headerLength (makeHeader urgency kind sender length) = length := by
  rw [headerLength, makeHeader, BitVec.extractLsb'_append_eq_right, BitVec.toNat_ofNat, Nat.mod_eq_of_lt h]

theorem headerSender_makeHeader (urgency kind length : Nat) {sender : Nat} (h : sender < 64) :
    headerSender (makeHeader urgency kind sender length) = sender := by
  rw [headerSender, makeHeader, extractLsb'_append_high (n := 4) _ _ 0, BitVec.extractLsb'_append_eq_right,
    BitVec.toNat_ofNat, Nat.mod_eq_of_lt h]

theorem headerKind_makeHeader (urgency sender length : Nat) {kind : Nat} (h : kind < 8) :
    headerKind (makeHeader urgency kind sender length) = kind := by
  rw [headerKind, makeHeader, extractLsb'_append_high (n := 4) _ _ 6, extractLsb'_append_high (n := 6) _ _ 0,
    BitVec.extractLsb'_append_eq_right, BitVec.toNat_ofNat, Nat.mod_eq_of_lt h]

theorem headerUrgency_makeHeader (kind sender length : Nat) {urgency : Nat} (h : urgency < 8) :
    headerUrgency (makeHeader urgency kind sender length) = urgency := by
  rw [headerUrgency, makeHeader, extractLsb'_append_high (n := 4) _ _ 9, extractLsb'_append_high (n := 6) _ _ 3,
    extractLsb'_append_high (n := 3) _ _ 0, BitVec.extractLsb'_eq_self, BitVec.toNat_ofNat, Nat.mod_eq_of_lt h]

/-- The header of a queued frame, field by field. -/
theorem queuedHeader_fields {f : QueuedFrame} (hurgency : f.urgency < 8) (hsender : f.sender ≤ 60) :
    headerUrgency (queuedHeader f) = f.urgency ∧ headerKind (queuedHeader f) = f.body.kind
      ∧ headerSender (queuedHeader f) = f.sender
      ∧ headerLength (queuedHeader f) = (kindLength f.body.kind).getD 0 := by
  have hkind : f.body.kind < 8 := by cases f.body <;> simp [FrameBody.kind]
  have hlength : (kindLength f.body.kind).getD 0 < 16 := by cases f.body <;> simp [FrameBody.kind, kindLength]
  exact ⟨headerUrgency_makeHeader _ _ _ hurgency, headerKind_makeHeader _ _ _ hkind,
    headerSender_makeHeader _ _ _ (by omega), headerLength_makeHeader _ _ _ hlength⟩

theorem length_stampedPayload (u : Bn24) (body : FrameBody) :
    (stampedPayload u body).length = (kindLength body.kind).getD 0 := by
  cases body <;> rfl

/-- An attempt's frame is valid at its receivers (R127). -/
theorem attemptOf_valid (u : Bn24) {f : QueuedFrame} (hurgency : f.urgency < 8) (hlow : 1 ≤ f.sender) (hhigh : f.sender ≤ 60) :
    frameValid (attemptOf u f).header (attemptOf u f).payload (attemptOf u f).check = true := by
  obtain ⟨-, hkind, hsender, hlength⟩ := queuedHeader_fields hurgency hhigh
  show frameValid (queuedHeader f) (stampedPayload u f.body) _ = true
  refine (frameValid_iff _ _ _).mpr ⟨?_, ?_, rfl, hsender ▸ hlow, hsender ▸ hhigh⟩
  · rw [badHeader, hkind, hlength]
    cases f.body <;> rfl
  · rw [length_stampedPayload, hlength]

/-! ### Payloads -/

theorem beaconOf_stamped (u : Bn24) (sender : Nat) (mark : Time) (hreference : u.clock.reference ≤ 60) :
    beaconOf sender (stampedPayload u .beacon) mark =
      { station := sender, time := u.localTime + u.clock.offset, lock := u.clock.lock.code
        reference := u.clock.reference, startMark := mark } := by
  have htime : timeAt (stampedPayload u .beacon) 0 = u.localTime + u.clock.offset := timeBytes_append _
  have href : (byteAt (stampedPayload u .beacon) 4).toNat = u.clock.reference := by
    show (BitVec.ofNat 8 u.clock.reference).toNat = _
    rw [BitVec.toNat_ofNat]
    omega
  rw [beaconOf, htime, href]
  rfl

/-- The byte that packs four fields of a PASSAGE (R205). -/
def packedByte (c : Fin 4) (inbound timed : Bool) (chain : Nat) : Byte :=
  BitVec.ofNat 2 c.val ++ BitVec.ofBool inbound ++ BitVec.ofBool timed ++ BitVec.ofNat 4 chain

theorem packedByte_fields (c : Fin 4) (inbound timed : Bool) {chain : Nat} (hchain : chain ≤ 15) :
    ((packedByte c inbound timed chain).extractLsb' 6 2).toFin = c
      ∧ (packedByte c inbound timed chain).getLsbD 5 = inbound ∧ (packedByte c inbound timed chain).getLsbD 4 = timed
      ∧ ((packedByte c inbound timed chain).extractLsb' 0 4).toNat = chain := by
  have hclass : (packedByte c inbound timed chain).extractLsb' 6 2 = BitVec.ofNat 2 c.val :=
    (extractLsb'_append_high (n := 4) _ _ 2 2).trans
      ((extractLsb'_append_high (n := 1) _ _ 1 2).trans BitVec.extractLsb'_append_eq_left)
  have hinbound : (packedByte c inbound timed chain).getLsbD 5 = (BitVec.ofBool inbound).getLsbD 0 :=
    BitVec.getLsbD_append.trans (BitVec.getLsbD_append.trans BitVec.getLsbD_append)
  have htimed : (packedByte c inbound timed chain).getLsbD 4 = (BitVec.ofBool timed).getLsbD 0 :=
    BitVec.getLsbD_append.trans BitVec.getLsbD_append
  refine ⟨?_, ?_, ?_, ?_⟩
  · rw [hclass]
    simp
  · simpa using hinbound
  · simpa using htimed
  · rw [packedByte, BitVec.extractLsb'_append_eq_right, BitVec.toNat_ofNat]
    omega

theorem hasTimeQuality_iff (l : LockState) : hasTimeQuality l = true ↔ l ≠ .off ∧ l ≠ .acquiring := by
  cases l <;> simp [hasTimeQuality]

theorem passageOf_stamped (u : Bn24) (sender : Nat) (p : PassageFields) (hchain : p.chain ≤ 15) (hnext : p.next ≤ 60)
    (hlow : -32768 ≤ p.lateness) (hhigh : p.lateness ≤ 32767) :
    passageOf sender (stampedPayload u (.passage p)) =
      { sender := sender, key := p.key, routeClass := p.routeClass, direction := p.direction
        timed := u.clock.lock ≠ .off ∧ u.clock.lock ≠ .acquiring, chain := p.chain, lateness := p.lateness
        departure := p.checkOut + u.clock.offset, next := p.next } := by
  have hvehicle : halfAt (stampedPayload u (.passage p)) 0 = p.key.vehicle := halfBytes_append _
  have hlateness : (halfAt (stampedPayload u (.passage p)) 4).toInt = p.lateness := by
    have hword : halfAt (stampedPayload u (.passage p)) 4 = BitVec.ofInt 16 p.lateness := halfBytes_append _
    rw [hword, BitVec.toInt_ofInt_eq_self (by omega) hlow (by omega)]
  have hdeparture : timeAt (stampedPayload u (.passage p)) 6 = p.checkOut + u.clock.offset := timeBytes_append _
  have hstation : (byteAt (stampedPayload u (.passage p)) 9).toNat = p.next := by
    show (BitVec.ofNat 8 p.next).toNat = _
    rw [BitVec.toNat_ofNat]
    omega
  have hdirection : (if decide (p.direction = .inbound) = true then FlowDirection.inbound else .outbound) = p.direction := by
    cases p.direction <;> rfl
  have hquality : hasTimeQuality u.clock.lock = decide (u.clock.lock ≠ .off ∧ u.clock.lock ≠ .acquiring) := by
    rw [Bool.eq_iff_iff, hasTimeQuality_iff, decide_eq_true_iff]
  have hpacked : byteAt (stampedPayload u (.passage p)) 3 =
      packedByte p.routeClass (decide (p.direction = .inbound))
        (decide (u.clock.lock ≠ .off ∧ u.clock.lock ≠ .acquiring)) p.chain := by
    rw [← hquality]
    rfl
  obtain ⟨hclass, hinbound, htimed, hchains⟩ := packedByte_fields p.routeClass (decide (p.direction = .inbound))
    (decide (u.clock.lock ≠ .off ∧ u.clock.lock ≠ .acquiring)) hchain
  simp only [passageOf, hvehicle, hlateness, hdeparture, hstation, hpacked, hclass, hinbound, htimed, hchains, hdirection]
  rfl

/-- Settles O46: the header's fields, the checks of R127, and each payload read back. -/
theorem sentFramesAreReadAsSent : Obligations.SentFramesAreReadAsSent := by
  unfold Obligations.SentFramesAreReadAsSent
  intro u f hurgency hlow hhigh a
  obtain ⟨hurg, hkind, hsender, hlength⟩ := queuedHeader_fields hurgency hhigh
  refine ⟨attemptOf_valid u hurgency hlow hhigh, hsender, hurg, hlength.trans (length_stampedPayload u f.body).symm, ?_⟩
  have hpayload : a.payload = stampedPayload u f.body := rfl
  have hheader : headerKind a.header = f.body.kind := hkind
  rw [hpayload, hheader]
  cases f.body with
  | beacon => exact ⟨rfl, fun href mark => beaconOf_stamped u f.sender mark href⟩
  | passage p => exact ⟨rfl, fun hchain hnext hmin hmax => passageOf_stamped u f.sender p hchain hnext hmin hmax⟩
  | withdraw k => exact ⟨rfl, halfBytes_append _, rfl⟩

end Sys2Proof.Machine
end

section
/-! The Corridor Message Handler (chapter 7). -/

open Sys2Proof Sys2Proof.Machine

namespace Sys2Proof.Machine

/-! ### Requests of the table (R144, R148) -/

/-- The handler has taken the front request of the table. -/
theorem popHandlerRequest_eq {u : Bn24} {r : HandlerRequest} {rest : List HandlerRequest} (h : u.handler.requests = r :: rest) :
    popHandlerRequest u = { u with handler.requests := rest } := by
  simp only [popHandlerRequest, h, List.tail_cons]

/-- The command that takes a request of the table. -/
def requestCommand : HandlerRequest → Instr
  | .passage _ => .passageRequest
  | .withdraw _ => .withdrawRequest

/-- A request of the table at the front is taken and handled, by its own command. -/
theorem exec_handlerRequest {s : State} {r : HandlerRequest} {rest : List HandlerRequest} (hs : Active s)
    (hrequests : s.unit.handler.requests = r :: rest) :
    exec (requestCommand r) s = .next { s with unit := handleRequest r { s.unit with handler.requests := rest } } := by
  rw [← popHandlerRequest_eq hrequests]
  cases r with
  | passage r =>
    refine (exec_act hs rfl).trans ?_
    simp only [hrequests]
  | withdraw k =>
    refine (exec_act hs rfl).trans ?_
    simp only [hrequests]

/-- Where the approach's direction has a station downstream, the PASSAGE goes to it (R144). -/
theorem buildPassage_onward {u : Bn24} {r : PassageRequest} {a : ApproachRecord} {d : FlowDirection} {l : LinkRecord}
    (ha : approachRecord u r.approach = some a)
    (hrole : (a.role = .outbound ∧ d = .outbound) ∨ (a.role = .inbound ∧ d = .inbound)) (hl : linkRecord u d = some l)
    (hdown : l.downstream ≠ 0) :
    buildPassage r u = offerFrame (.passage (passageFields r d l.downstream)) (passageUrgency r.grade) u := by
  have hdirection : directionOf u r.approach = some d := by
    rcases hrole with ⟨hrole, rfl⟩ | ⟨hrole, rfl⟩ <;> simp [directionOf, ha, hrole]
  have htarget : passageTarget u r.approach = some (d, l.downstream) := by
    simp only [passageTarget, hdirection, hl, if_neg hdown]
  simp only [buildPassage, htarget]

/-- R178 in numbers. -/
theorem beaconDue_iff (u : Bn24) :
    beaconDue u = true ↔ u.clock.lock ≠ .off ∧ ∃ t, u.clock.beaconStart = some t
      ∧ (u.loader.inForce.params.beaconInterval : Int) ≤ age u.localTime t := by
  cases hstart : u.clock.beaconStart with
  | none => simp [beaconDue, hstart]
  | some t =>
    rw [beaconDue, Bool.and_eq_true, decide_eq_true_iff, hstart]
    exact and_congr_right fun _ => ⟨fun h => ⟨t, rfl, of_decide_eq_true h⟩, fun ⟨_, ht, h⟩ => by
      cases ht
      exact decide_eq_true h⟩

theorem exec_beaconTimer {s : State} (hs : Active s) :
    exec .beaconTimer s =
      .next { s with
        unit := if beaconDue s.unit
                then offerFrame .beacon 3 { s.unit with clock.beaconStart := some s.unit.localTime } else s.unit } :=
  exec_act hs rfl

/-! ### Delivered frames (R149 to R154) -/

/-- The command that takes a delivered frame. -/
def receivedCommand : ReceivedFrame → Instr
  | .passage _ => .passageReceived
  | .withdraw _ _ => .withdrawReceived

/-- A delivered frame at the front is taken and handled, by its own command. -/
theorem exec_handlerFrame {s : State} {f : ReceivedFrame} {rest : List ReceivedFrame} (hs : Active s)
    (hframes : s.unit.handler.frames = f :: rest) :
    exec (receivedCommand f) s = .next { s with unit := handleFrame f { s.unit with handler.frames := rest } } := by
  have htaken : popHandlerFrame s.unit = { s.unit with handler.frames := rest } := by
    simp only [popHandlerFrame, hframes, List.tail_cons]
  rw [← htaken]
  cases f with
  | passage f =>
    refine (exec_act hs rfl).trans ?_
    simp only [hframes]
  | withdraw sender k =>
    refine (exec_act hs rfl).trans ?_
    simp only [hframes]

theorem acceptingLink_eq_none {u : Bn24} {f : ReceivedPassage} (h : ∀ l ∈ linkRecord u f.direction, l.upstream ≠ f.sender) :
    acceptingLink u f = none := by
  cases hl : linkRecord u f.direction with
  | none => simp only [acceptingLink, hl]
  | some l => simp only [acceptingLink, hl, if_neg (h l hl)]

theorem acceptingLink_eq_some {u : Bn24} {f : ReceivedPassage} {l : LinkRecord} (hl : linkRecord u f.direction = some l)
    (h : l.upstream = f.sender) : acceptingLink u f = some l := by
  simp only [acceptingLink, hl, if_pos h]

/-- Settles O48: each request and each frame by its own command, in RUNNING and outside it. -/
theorem handlerItems : Obligations.HandlerItems := by
  unfold Obligations.HandlerItems
  refine ⟨fun s rest hs => ?sent, fun s rest hs => ?received, fun s hs hrun hoff => ?quiet⟩
  case sent =>
    intro taken restarted
    refine ⟨fun r a d l hrequests ha hrole hl hdown => ?_, fun k hrequests => ?_, fun since hlock hsince => ?_, fun hnone => ?_⟩
    · exact (exec_handlerRequest hs hrequests).trans (congrArg (fun v => Host.Outcome.next { s with unit := v })
        (buildPassage_onward (u := taken) ha hrole hl hdown))
    · exact exec_handlerRequest hs hrequests
    · rw [exec_beaconTimer hs]
      refine ⟨fun hdue => ?_, fun hearly => ?_⟩
      · rw [if_pos ((beaconDue_iff _).mpr ⟨hlock, since, hsince, hdue⟩)]
      · rw [if_neg fun hdue => ?_]
        obtain ⟨-, t, ht, hpassed⟩ := (beaconDue_iff _).mp hdue
        rw [hsince, Option.some.injEq] at ht
        exact absurd (ht ▸ hpassed) (not_le.mpr hearly)
    · rw [exec_beaconTimer hs, if_neg fun hdue => ?_]
      obtain ⟨hlock, t, ht, -⟩ := (beaconDue_iff _).mp hdue
      exact hnone.elim (fun h => by simp [h] at ht) hlock
  case received =>
    intro own taken
    have hsend (rs : List TableRequest) :
        sendTable rs taken = { taken with table.requests := s.unit.table.requests ++ rs } := sendTable_running (u := taken) hs.2 rs
    refine ⟨fun f hframes => ?_, fun sender k hframes => ?_⟩
    · intro noBus
      have hexec := exec_handlerFrame hs.1 hframes
      refine ⟨fun hv hhere => ?_, fun hv haway => ?_, fun hv hhere hl => ?_, fun hv hhere l hl hup => ?_, fun hv haway => ?_⟩ <;>
        refine hexec.trans (congrArg (fun v => Host.Outcome.next { s with unit := v }) ?_) <;>
        rw [handleFrame, handlePassage]
      · rw [if_pos ((badVehicle_iff _).mpr hv)]
        exact if_pos hhere
      · rw [if_pos ((badVehicle_iff _).mpr hv)]
        exact if_neg haway
      · rw [if_neg fun h => hv ((badVehicle_iff _).mp h)]
        refine (if_pos hhere).trans ?_
        rw [passageHere, acceptingLink_eq_none (u := taken) hl]
      · rw [if_neg fun h => hv ((badVehicle_iff _).mp h)]
        refine (if_pos hhere).trans ?_
        rw [passageHere, acceptingLink_eq_some (u := taken) hl hup]
        exact hsend _
      · rw [if_neg fun h => hv ((badVehicle_iff _).mp h)]
        exact (if_neg haway).trans (hsend _)
    · exact (exec_handlerFrame hs.1 hframes).trans (congrArg (fun v => Host.Outcome.next { s with unit := v }) (hsend _))
  case quiet =>
    refine ⟨fun r rest c hrequests hc => ?_, fun f rest c hframes hc => ?_⟩
    · have hcommand : c = requestCommand r := by rw [hc]; cases r <;> rfl
      rw [hcommand, exec_handlerRequest hs hrequests, handleRequest_off]
      exact hoff
    · have hcommand : c = receivedCommand f := by rw [hc]; cases f <;> rfl
      have hrefused : refusedHere { s.unit with handler.frames := rest } f = refusedHere s.unit f := by cases f <;> rfl
      rw [hcommand, exec_handlerFrame hs hframes, handleFrame_quiet, hrefused]
      · split <;> rfl
      · simp [isRunning, hrun]

end Sys2Proof.Machine
end

section
/-! The Corridor Time Unit (chapter 8): the peer table, taking a reference, and the clock's timers. -/

open Sys2Proof Sys2Proof.Machine

namespace Sys2Proof.Machine

/-! ### The record to replace (R163) -/

theorem earlier_of_later {x y : Time} (h : later x y = true) : earlier y x = true ∧ earlier x y = false ∧ x ≠ y := by
  simp only [later, earlier, decide_eq_true_iff, decide_eq_false_iff_not] at h ⊢
  refine ⟨?_, by omega, fun heq => by simp [heq] at h⟩
  rw [timeDiff_eq_bmod, Int.bmod_def] at h ⊢
  split at h <;> split <;> omega

theorem earlier_self (x : Time) : earlier x x = false := by simp [earlier]

/-- A record that R163 puts before another: it goes first, and the other does not. -/
theorem replacedBefore_of {out p : Peer} (h : later p.last out.last = true ∨ (p.last = out.last ∧ p.station < out.station)) :
    replacedBefore out p = true ∧ replacedBefore p out = false := by
  rcases h with hlater | ⟨htime, hstation⟩
  · obtain ⟨hbefore, hnot, hne⟩ := earlier_of_later hlater
    simp [replacedBefore, hbefore, hnot, hne]
  · simp [replacedBefore, htime, earlier_self, hstation, hstation.le]

/-- The choice ends with the record that goes before every other one. -/
theorem foldl_chooseOldest {out : Peer} (l : List Peer) (best : Option Peer)
    (hall : ∀ p ∈ l, p ≠ out → replacedBefore out p = true ∧ replacedBefore p out = false)
    (hbest : best = some out ∨ (out ∈ l ∧ ∀ b ∈ best, replacedBefore out b = true)) :
    l.foldl chooseOldest best = some out := by
  induction l generalizing best with
  | nil => simpa using hbest
  | cons p rest ih =>
    refine ih _ (fun q hq => hall q (List.mem_cons_of_mem p hq)) ?_
    by_cases hp : p = out
    · subst hp
      refine .inl ?_
      rcases hbest with rfl | ⟨-, hbest⟩
      · simp [chooseOldest]
      · cases best with
        | none => rfl
        | some b => simp [chooseOldest, hbest b rfl]
    · obtain ⟨hbefore, hnot⟩ := hall p List.mem_cons_self hp
      rcases hbest with rfl | ⟨hmem, hbest⟩
      · simp [chooseOldest, hnot]
      · refine .inr ⟨(List.mem_cons.mp hmem).resolve_left fun h => hp h.symm, fun b hb => ?_⟩
        cases best with
        | none => exact Option.some.inj hb ▸ hbefore
        | some c =>
          have hchosen : b = p ∨ b = c := by
            simp only [chooseOldest] at hb
            split at hb <;> simp_all
          exact hchosen.elim (fun h => h ▸ hbefore) fun h => h ▸ hbest c rfl

theorem replacedPeer_eq {out : Peer} {reference : Nat} {peers : List Peer} (hout : out ∈ peers) (hne : out.station ≠ reference)
    (hall : ∀ p ∈ peers, p.station ≠ reference → p ≠ out →
      later p.last out.last = true ∨ (p.last = out.last ∧ p.station < out.station)) :
    replacedPeer reference peers = some out := by
  refine foldl_chooseOldest _ none (fun p hp hpo => ?_) (.inr ⟨by simp [hout, hne], by simp⟩)
  obtain ⟨hmem, hstation⟩ := List.mem_filter.mp hp
  exact replacedBefore_of (hall p hmem (by simpa using hstation) hpo)

/-! ### Beacons (R162, R168) -/

theorem lockOf_eq_some {b : Byte} {l : LockState} (h : lockOf b = some l) : b = l.code := by
  unfold lockOf at h
  split_ifs at h with h0 h1 h2 h3 h4 h5 <;> obtain rfl := Option.some.inj h <;> assumption

/-- An inconsistent beacon names no lock state (R162). -/
theorem consistentLock_of_inconsistent {b : ReceivedBeacon} (h : Inconsistent b) : consistentLock b = none := by
  unfold consistentLock
  split
  next => rfl
  next href =>
    cases hlock : lockOf b.lock with
    | none => rfl
    | some l =>
      rw [Inconsistent, lockOf_eq_some hlock] at h
      cases l with
      | off => rfl
      | acquiring | free | coarse | fine | holdover =>
        simp [LockState.code, href] at h ⊢
        omega

/-- BEACON_RECEIVED takes the beacon at the front, whatever becomes of it. -/
theorem exec_beaconReceived {s : State} {b : ReceivedBeacon} {rest : List ReceivedBeacon} (hs : Active s)
    (hfront : s.unit.clock.beacons = b :: rest) :
    exec .beaconReceived s = .next { s with unit := handleBeacon b { s.unit with clock.beacons := rest } } := by
  refine (exec_act hs rfl).trans ?_
  simp only [hfront]
  rfl

/-- A consistent beacon is recorded, and one from a lower station is applied (R162). -/
theorem exec_beaconReceived_consistent {s : State} {b : ReceivedBeacon} {rest : List ReceivedBeacon} {st : LockState}
    (hs : Active s) (hfront : s.unit.clock.beacons = b :: rest) (hoff : s.unit.clock.lock ≠ .off)
    (hcons : consistentLock b = some st) (hown : ¬ b.station < s.unit.loader.inForce.station) :
    exec .beaconReceived s = .next { s with unit := recordedUnit b rest st s.unit } := by
  rw [exec_beaconReceived hs hfront, handleBeacon, if_neg hoff, hcons]
  exact congrArg (fun v => Host.Outcome.next { s with unit := v }) (if_neg hown)

/-- In COARSE and FINE a beacon from between the reference and the unit only records (R168). -/
theorem applyLowerBeacon_between {u : Bn24} {station : Nat} (e : Int) (hlock : u.clock.lock = .coarse ∨ u.clock.lock = .fine)
    (hpos : 0 < u.clock.reference) (habove : u.clock.reference < station) : applyLowerBeacon station e u = u := by
  have hkeeps : takesOver u station = false := by simp [takesOver, hpos.ne', habove.le]
  rcases hlock with hlock | hlock <;> simp [applyLowerBeacon, hlock, hkeeps, habove.ne']

/-- Settles O49: the peer table by `recordPeer`'s cases, then the beacons that leave the clock. -/
theorem peerRecords : Obligations.PeerRecords := by
  unfold Obligations.PeerRecords
  refine ⟨fun new reference peers hlen hnodup => ?table, fun s b rest hs hfront hdropped => ?dropped,
    fun s b rest st hs hfront hcode => ?recorded⟩
  case table =>
    intro after replaced
    refine ⟨recordPeer_bounds new reference hlen hnodup, fun hknown => ?_, fun hnew hroom => ?_,
      fun hnew hfull out hout hne hall => ?_⟩
    · exact if_pos (by simpa using hknown)
    · exact (if_neg (by simpa using hnew)).trans (if_pos hroom)
    · refine (if_neg (by simpa using hnew)).trans ((if_neg (by simp [Config.peerCapacity, hfull])).trans ?_)
      rw [replacedPeer_eq hout hne hall]
      rfl
  case dropped =>
    rw [exec_beaconReceived hs hfront]
    refine congrArg (fun v => Host.Outcome.next { s with unit := v }) ?_
    by_cases hoff : s.unit.clock.lock = .off
    · exact if_pos hoff
    · rw [handleBeacon, if_neg hoff, consistentLock_of_inconsistent (hdropped.resolve_left hoff)]
  case recorded =>
    intro c own peers recorded
    have higher (hoff : c.lock ≠ .off) (hb : ¬ Inconsistent b) (hown : own ≤ b.station) : recorded :=
      exec_beaconReceived_consistent hs hfront hoff (consistentLock_of_not_inconsistent hcode hb) (not_lt.mpr hown)
    have lower (hoff : c.lock ≠ .off) (hb : ¬ Inconsistent b) (hown : b.station < own)
        (hkeeps : ∀ e, applyLowerBeacon b.station e (recordedUnit b rest st s.unit) = recordedUnit b rest st s.unit) :
        recorded := by
      refine (exec_beaconReceived_lower hs hfront hoff (consistentLock_of_not_inconsistent hcode hb) hown).trans ?_
      rw [hkeeps]
      rfl
    refine ⟨higher, fun hlock hb hpos habove => ?_, fun hlock hb hlive => ?_⟩
    · have hoff : c.lock ≠ .off := by rcases hlock with h | h <;> simp [h]
      rcases le_or_gt own b.station with hown | hown
      · exact higher hoff hb hown
      · exact lower hoff hb hown fun e =>
          applyLowerBeacon_between (u := recordedUnit b rest st s.unit) e hlock hpos habove
    · have hoff : c.lock ≠ .off := by simp [hlock]
      rcases le_or_gt own b.station with hown | hown
      · exact higher hoff hb hown
      · refine lower hoff hb hown fun e => ?_
        have hheld : (recordedUnit b rest st s.unit).clock.lock = .holdover := hlock
        have hany : liveLower (recordedUnit b rest st s.unit) b.station = true := (liveLower_iff _ _).mpr hlive
        simp [applyLowerBeacon, hheld, hany]

/-! ### Taking a reference (R165 to R168, R172) -/

/-- The maintenance block once a step onto a station's time is counted, and the change of reference if it is one. -/
def steppedMaint (station : Nat) (u : Bn24) : Maintenance :=
  (count .timeSteps (if station = u.clock.reference then u else count .referenceChanges u)).maint

/-- Taking a reference by its beacon: its time, COARSE, and the counts, with the LOCK_EVENT of leaving FINE. -/
theorem takeReference_eq (b : ReceivedBeacon) (u : Bn24) :
    takeReference b.station (beaconError u b) u =
      leftState u.clock.lock
        { u with
          clock := { u.clock with offset := b.time - b.startMark, lock := .coarse, reference := b.station, fine := 0
                                  acqStart := none, holdStart := none }
          maint := steppedMaint b.station u } := by
  have hmoved : u.clock.offset + BitVec.ofInt 24 (beaconError u b) = b.time - b.startMark :=
    congrArg TimeUnit.offset (moveOffset_beaconError u b)
  have hreference : setReference b.station u =
      { u with clock.reference := b.station
               maint := (if b.station = u.clock.reference then u else count .referenceChanges u).maint } := by
    unfold setReference
    split <;> rfl
  rw [takeReference, hreference, ← hmoved]
  rfl

/-- The LOCK_EVENT of leaving a lock state, with its modes (R176). -/
theorem leftState_eq (lock : LockState) (u : Bn24) :
    leftState lock u = { u with maint :=
      if lock = .fine ∧ (u.loader.inForce.params.lockEventMode = 2 ∨ u.loader.inForce.params.lockEventMode = 3)
      then (flag .lockEvent u).maint else u.maint } := by
  cases lock with
  | fine =>
    rw [leftState, leftFine_eq, lockEventMaint]
    simp
  | off | acquiring | coarse | holdover | free => simp [leftState]

/-- The same on the flags alone. -/
theorem leftState_flags (lock : LockState) (u : Bn24) :
    leftState lock u = { u with maint.flags := u.maint.flags |||
      (if lock = .fine ∧ (u.loader.inForce.params.lockEventMode = 2 ∨ u.loader.inForce.params.lockEventMode = 3)
       then 0x0020 else 0) } := by
  rw [leftState_eq]
  split
  · rfl
  · simp

/-- Settles O50: in each of these lock states the lower station's beacon is taken (`takeReference_eq`). -/
theorem lowerStationsAreTakenAsReference : Obligations.LowerStationsAreTakenAsReference := by
  unfold Obligations.LowerStationsAreTakenAsReference
  intro s b rest st hs hfront hcode hb hown c peers mode counted hstate
  let u := recordedUnit b rest st s.unit
  have hoff : c.lock ≠ .off := by rcases hstate with h | h | ⟨h | h, -⟩ | ⟨h, -⟩ <;> simp [h]
  have htaken : applyLowerBeacon b.station (beaconError u b) u = takeReference b.station (beaconError u b) u := by
    have hlock : u.clock.lock = c.lock := rfl
    rcases hstate with h | h | ⟨h, hlower⟩ | ⟨h, hstale⟩
    · simp only [applyLowerBeacon, hlock, h]
    · simp only [applyLowerBeacon, hlock, h]
    · have hover : takesOver u b.station = true := by
        simp [takesOver, show b.station < u.clock.reference from hlower]
      rcases h with h | h <;> simp only [applyLowerBeacon, hlock, h, if_pos hover]
    · have hnone : ¬ liveLower u b.station = true := fun hlive => by
        obtain ⟨p, hp, hlow, hage⟩ := (liveLower_iff _ _).mp hlive
        exact absurd (hstale p hp hlow) (not_lt.mpr hage)
      simp only [applyLowerBeacon, hlock, h, if_neg hnone]
  have hmaint : steppedMaint b.station u = counted.maint := by
    have hchanges : (if b.station = c.reference then u else count .referenceChanges u).maint
        = (if b.station = c.reference then s.unit else count .referenceChanges s.unit).maint := by split <;> rfl
    exact congrArg (fun m => (count .timeSteps { u with maint := m }).maint) hchanges
  refine (exec_beaconReceived_lower hs hfront hoff (consistentLock_of_not_inconsistent hcode hb) hown).trans ?_
  rw [htaken, takeReference_eq, leftState_eq, hmaint]
  rfl

/-! ### Timers (R167, R171, R173) -/

/-- HOLDOVER keeps the offset and the reference (R171, R175, R176). -/
theorem enterHoldover_eq (u : Bn24) :
    enterHoldover u =
      { u with
        clock := { u.clock with lock := .holdover, fine := 0, miss := 0, holdStart := some u.localTime }
        maint.flags := u.maint.flags ||| 0x0040 |||
          (if u.clock.lock = .fine ∧ (u.loader.inForce.params.lockEventMode = 2 ∨ u.loader.inForce.params.lockEventMode = 3)
           then 0x0020 else 0) } :=
  leftState_flags u.clock.lock _

theorem passed_iff {u : Bn24} {n : Nat} {since : Option Time} {t : Time} (h : since = some t) :
    passed u n since = true ↔ (n : Int) < age u.localTime t := by
  simp [passed, h]

/-- Settles O52: each timer's condition in numbers, and what it enters. -/
theorem clockTimersChangeTheLock : Obligations.ClockTimersChangeTheLock := by
  unfold Obligations.ClockTimersChangeTheLock
  intro s c since hs hpeers clock now params stale free
  have hacquisition : exec .acquisitionWaitEnd s =
      .next { s with unit := if acquisitionOver s.unit then enterFree s.unit else s.unit } := exec_act hs rfl
  have hstale : exec .referenceStale s =
      .next { s with unit := if referenceIsStale s.unit then enterHoldover s.unit else s.unit } := exec_act hs rfl
  refine ⟨fun hlock hsince => ?wait, fun hlock => ?notWaiting, fun hlock p hp hstation => ?reference,
    fun hcoarse hfine => ?notFollowing, fun hc => ?holdover⟩
  case wait =>
    have hover : acquisitionOver s.unit = true ↔ (params.referenceTimeout : Int) < age now since := by
      simp only [acquisitionOver, show s.unit.clock.lock = .acquiring from hlock, decide_true, Bool.true_and]
      exact passed_iff hsince
    rw [hacquisition]
    refine ⟨fun hpast => ?_, fun hearly => ?_⟩
    · rw [if_pos (hover.mpr hpast)]
      rfl
    · rw [if_neg fun h => not_lt.mpr hearly (hover.mp h)]
  case notWaiting =>
    rw [hacquisition, if_neg (by simp [acquisitionOver, show s.unit.clock.lock ≠ .acquiring from hlock])]
  case reference =>
    have hpeer : peerOf s.unit s.unit.clock.reference = some p := hstation ▸ peerOf_eq_some hpeers.2 hp
    have hfollows : referenceIsStale s.unit = true ↔ stale p := by
      have hlocked : (decide (s.unit.clock.lock = .coarse) || decide (s.unit.clock.lock = .fine)) = true := by
        simpa using hlock
      rw [referenceIsStale, hlocked, Bool.true_and, hpeer]
      exact (peerStale_iff _ _).trans not_le
    rw [hstale]
    refine ⟨fun hp => ?_, fun hp => ?_⟩
    · rw [if_pos (hfollows.mpr hp), enterHoldover_eq]
    · rw [if_neg fun h => hp (hfollows.mp h)]
  case notFollowing =>
    rw [hstale, if_neg (by simp [referenceIsStale, show s.unit.clock.lock ≠ .coarse from hcoarse,
      show s.unit.clock.lock ≠ .fine from hfine])]
  case holdover =>
    have hexec : exec c s = .next { s with unit := if holdoverOver s.unit then enterFree s.unit else s.unit } := by
      rcases hc with rfl | rfl <;> exact exec_act hs rfl
    rw [hexec]
    refine ⟨fun hlock hsince => ?_, fun hlock => ?_⟩
    · have hover : holdoverOver s.unit = true ↔ (params.holdoverLimit : Int) < age now since
          ∧ ∀ p ∈ clock.peers, p.station < s.unit.loader.inForce.station → stale p := by
        simp only [holdoverOver, show s.unit.clock.lock = .holdover from hlock, decide_true, Bool.true_and, Bool.and_eq_true,
          Bool.not_eq_true', ← Bool.not_eq_true, liveLower_iff]
        refine and_congr (passed_iff hsince) ?_
        simp only [not_exists, not_and, not_le]
        rfl
      refine ⟨fun hpast hall => ?_, fun hearly => ?_⟩
      · rw [if_pos (hover.mpr ⟨hpast, hall⟩)]
        rfl
      · rw [if_neg fun h => ?_]
        obtain ⟨hpast, hall⟩ := hover.mp h
        exact hearly.elim (fun h => not_lt.mpr h hpast) fun ⟨p, hp, hlow, hfresh⟩ => hfresh (hall p hp hlow)
    · rw [if_neg (by simp [holdoverOver, show s.unit.clock.lock ≠ .holdover from hlock])]

end Sys2Proof.Machine
end
